-- ==== Sys2Proof/Word.lean ====
section
/-! DEFINITION. The widths of this hardware's values: `u8`, `u32`, `u64` of rule R7 (00_scope.md) and the 10-bit
command of rule R45 (30_encoding.md). Rule R8's operators are the BitVec operators of the same width. -/

namespace Sys2Proof

/-- `u8`: a message byte or a table index (R5: `A` = `B` = 8). -/
abbrev Byte := BitVec 8

/-- `u32`: the register and a table entry (R5: `W` = 32). -/
abbrev Word := BitVec 32

/-- `u64`: the port `crc_hex` (R24). -/
abbrev HexPort := BitVec 64

/-- The word on `cmd[9:0]` in one cycle (R45). -/
abbrev Command := BitVec 10

end Sys2Proof
end

