-- ==== Sys2Proof/Syntax.lean ====
section
/-! DEFINITION. The commands of 30_encoding.md, one constructor per row of spec/opcode_table.json, and one entry of
the host's cycle list. -/

namespace Sys2Proof

/-- The four rows of the opcode map (R48). Every constructor keeps `cmd[7:0]`: NOP and INIT ignore it (R50), and it
still reaches `rom_addr` (R25). -/
inductive Instr where
  /-- NOP: no operation (R68). -/
  | nop (data : Byte)
  /-- INIT: start a message (R69). -/
  | init (data : Byte)
  /-- UPDATE: fold the byte `b` (R70). -/
  | update (b : Byte)
  /-- The reserved encoding, op 11 (R49, R71). -/
  | reserved (data : Byte)
  deriving DecidableEq, Repr

/-- What the host drives in one cycle (R10, R24). Reset is an input of its own, not a command (R52). -/
structure CycleInput where
  rst : Bool
  cmd : Command
  deriving DecidableEq, Repr

end Sys2Proof
end

