-- ==== Sys2Proof/Decode.lean ====
section
/-! DEFINITION. The encoding of 30_encoding.md: fields (R45), the opcode map as rows of mask and match (R48), the
total decoder (R46), the encoder, and the reading of a word given as a number. -/

namespace Sys2Proof

/-- `op = cmd[9:8]` (R45). -/
def opField (w : Command) : BitVec 2 := w.extractLsb' 8 2

/-- `data = cmd[7:0]` (R45, R47). -/
def dataField (w : Command) : Byte := w.extractLsb' 0 8

/-- One row of the opcode map (R48): a word belongs to the row when its bits under `mask` are those of `value`. -/
structure OpcodeRow where
  mnemonic : String
  mask : Command
  value : Command
  deriving DecidableEq, Repr

/-- R48: `mask` = 0x300 and `match` = `op << 8`. -/
def opcodeRows : List OpcodeRow :=
  [⟨"NOP", 0x300#10, 0x000#10⟩, ⟨"INIT", 0x300#10, 0x100#10⟩,
   ⟨"UPDATE", 0x300#10, 0x200#10⟩, ⟨"RESERVED", 0x300#10, 0x300#10⟩]

/-- Whether `w` belongs to `row`. -/
def OpcodeRow.matches (row : OpcodeRow) (w : Command) : Bool := w &&& row.mask == row.value

/-- The row's name of an instruction (spec/opcode_table.json). -/
def Instr.mnemonic : Instr → String
  | .nop _ => "NOP"
  | .init _ => "INIT"
  | .update _ => "UPDATE"
  | .reserved _ => "RESERVED"

/-- R46, R48: each of the 1024 words is exactly one of NOP, INIT, UPDATE or the reserved encoding. -/
def decode (w : Command) : Instr :=
  if opField w = 0b00#2 then .nop (dataField w)
  else if opField w = 0b01#2 then .init (dataField w)
  else if opField w = 0b10#2 then .update (dataField w)
  else .reserved (dataField w)

/-- The word of a command: `{op, data}` (R45, R48). -/
def encode : Instr → Command
  | .nop data => 0b00#2 ++ data
  | .init data => 0b01#2 ++ data
  | .update b => 0b10#2 ++ b
  | .reserved data => 0b11#2 ++ data

/-- Why a number is not read as a command. -/
inductive DecodeError where
  /-- The number has a bit above `cmd[9]`, so no cycle can present it (R46: every command is one 10-bit word). -/
  | wordTooWide (w : Nat)
  deriving DecidableEq, Repr

/-- A number as the word of one command; log 12. -/
def commandOfNat (w : Nat) : Except DecodeError Command :=
  if w < 1024 then .ok (BitVec.ofNat 10 w) else .error (.wordTooWide w)

/-- A number read as an instruction: total, and rejecting by name. -/
def decodeNat (w : Nat) : Except DecodeError Instr := (commandOfNat w).map decode

/-- What the decoder reads from an opcode-table word. The whole instruction is the ten bits `w[9:0]`, so the row's
`nbits` adds nothing. -/
def decodeTableWord (_nbits w : Nat) : Option Instr :=
  match decodeNat w with
  | .ok i => some i
  | .error _ => none

end Sys2Proof
end

