-- ==== Sys2Proof/Machine/Operands.lean ====
section
/-! DEFINITION. How UPDATE's one operand meets the register (30_encoding.md R47), and the byte-order helper of R8. -/

namespace Sys2Proof.Machine

/-- `r[31:24]` (R7). -/
def topByte (r : Word) : Byte := r.extractLsb' 24 8

/-- The table index `i = r[31:24] ^ b` (R25, R70). -/
def tableIndex (r : Word) (b : Byte) : Byte := topByte r ^^^ b

/-- `bswap32(v) = {v[7:0], v[15:8], v[23:16], v[31:24]}` (R8). -/
def bswap32 (v : Word) : Word :=
  v.extractLsb' 0 8 ++ v.extractLsb' 8 8 ++ v.extractLsb' 16 8 ++ v.extractLsb' 24 8

end Sys2Proof.Machine
end

