-- ==== Sys2Proof/Config.lean ====
section
/-! DEFINITION. The fixed parameters of rule R5 (00_scope.md), none of them configurable at run time, and the one
value the spec leaves open on a port (93_implementation_defined.md U4). -/

namespace Sys2Proof.Config

/-- `POLY`, the generator (R6). PRESUMED: the spec takes the value from general knowledge (D8), safe only where the
known answers hold; log 8. -/
def poly : Word := 0x04C11DB7#32

/-- `INIT_VALUE` (R5). -/
def initValue : Word := 0xFFFFFFFF#32

/-- `FINAL_XOR` (R5): XOR with it equals the complement of all 32 bits. -/
def finalXor : Word := 0xFFFFFFFF#32

/-- `N_ENTRIES` (R5). -/
def tableEntries : Nat := 256

/-- `HEX_LEN` (R5). -/
def hexLen : Nat := 8

/-- FREE VALUE (U4): what `rom_addr` shows in a cycle, given by its index and the word on `cmd`, while `r` has no
value (R25). Nothing constrains it, and no state change reads it. Safe; log 5. -/
opaque romAddrUnwritten : Nat → Command → Byte

end Sys2Proof.Config
end

