-- ==== Sys2Proof/Machine/State.lean ====
section
/-! DEFINITION. The state of one `crc32a_engine` (10_state.md R13, R14, R21), the host's cycle list it is driven by
(00_scope.md R10, R12), and the reasons a step can stop. -/

namespace Sys2Proof.Machine

/-- The model faults of rule R89 (60_exceptions.md) with the value each records. The hardware itself raises none
(R88). Both are safe: they stand where no source says what the hardware does. -/
inductive Fault where
  /-- Raised by `execReserved`, a cycle with `rst = 0` and op 11 (R71): its cycle index and its word. Safe; log 6. -/
  | reservedOp (cycle : Nat) (word : Command)
  /-- Raised by `execUpdate` (R72) and by a read of `crc_out` or `crc_hex` (R81) while `r` has no value: the cycle
  index. Safe; log 7 and log 17. -/
  | unwrittenRegister (cycle : Nat)
  deriving DecidableEq, Repr

/-- Why a step answers nothing. -/
inductive Refusal where
  /-- The host's form for an instruction without a meaning. No arm of `exec` uses it: every command has its meaning.
  Safe. -/
  | notModelled (mnemonic : String)
  /-- Raised by `step` when the host's cycle list has no entry left: the run has ended (R12), and what a later cycle
  does is not said. Safe; log 1. -/
  | endOfRun
  deriving DecidableEq, Repr

/-- One engine and the rest of the run it is in. -/
structure State where
  /-- The Register (R14), `none` before the first reset or INIT (R21 (a)). -/
  r : Option Word
  /-- The fault record (R21 (b), R89). -/
  fault : Option Fault
  /-- The index into the host's cycle list of the cycle to be applied next (R12, R16). -/
  cycle : Nat
  /-- The entries of the host's cycle list from `cycle` on (R12). -/
  inputs : List CycleInput
  deriving DecidableEq, Repr

/-- Right after a reset (R27, R100) with no fault recorded, at the start of a run whose list the host has not given
yet. `cycle` and `inputs`: DESIGN CHOICE, log 1 and log 3. -/
def State.reset : State := ⟨some Config.initValue, none, 0, []⟩

end Sys2Proof.Machine
end

