-- ==== Sys2Proof/Machine/Ops.lean ====
section
/-! DEFINITION. The named operations over State: reading and writing the register, the cycle's edge, the host's
inputs, and recording a fault. The hardware has no trap to take and none to return from (60_exceptions.md R92); a
model fault (R89) is what stands in that place, and `raise` and `State.record` are its one home. -/

namespace Sys2Proof.Machine

/-- Power-up: `r` holds no value, no fault is recorded (R21, R102). -/
def State.powerUp : State := ⟨none, none, 0, []⟩

/-- Every read of `r`: the value it holds, or `UnwrittenRegister` with the cycle index (R21 (a), R89). -/
def State.readR (s : State) : Except Fault Word :=
  match s.r with
  | some v => .ok v
  | none => .error (.unwrittenRegister s.cycle)

/-- `r <- v`: every write of `r` (R9). -/
def State.writeR (s : State) (v : Word) : State := { s with r := some v }

/-- The rising edge that ends a cycle: the position moves by exactly 1 (R16), its entry of the list is used up. -/
def State.advance (s : State) : State :=
  { s with cycle := s.cycle + 1, inputs := s.inputs.tail }

/-- The inputs sampled in this cycle (R67): none when the host's list has ended (R12). -/
def State.sampled (s : State) : Option CycleInput := s.inputs.head?

/-- The host's cycle list from this cycle on (R12). -/
def State.withInputs (s : State) (cs : List CycleInput) : State := { s with inputs := cs }

/-- The host presents `c` in this cycle, in place of what the list had for it. -/
def State.present (s : State) (c : CycleInput) : State := s.withInputs (c :: s.inputs.tail)

/-- A cycle with `rst = 1` (R100): `r` takes the reset value, `cmd` is ignored. -/
def applyReset (s : State) : State := (s.writeR Config.initValue).advance

/-- `raise Fault(f)` (R9): the run stops with the fault. -/
def raise (f : Fault) : Host.Outcome State Fault Refusal := .fault f

/-- A fault entering the record: the first one stays, and nothing clears it (R21 (b), R89). -/
def State.record (s : State) (f : Fault) : State := { s with fault := some (s.fault.getD f) }

end Sys2Proof.Machine
end

