-- ==== Sys2Proof/Machine/Commands.lean ====
section
/-! DEFINITION. The meaning of each command (41_engine_commands.md R68 to R72), in a cycle with `rst = 0` and no
fault recorded. -/

namespace Sys2Proof.Machine

/-- The fold of one byte: `(r << 8) ^ T[r[31:24] ^ b]`, low 32 bits only (R70). -/
def foldByte (r : Word) (b : Byte) : Word := (r <<< 8) ^^^ romRead (tableIndex r b)

/-- NOP (R68): nothing is read and nothing written; `data` is ignored (R50). -/
def execNop (_data : Byte) (s : State) : Host.Outcome State Fault Refusal := .next s.advance

/-- INIT (R69): `r <- 0xFFFFFFFF`, whatever `r` held; `data` is ignored (R50). -/
def execInit (_data : Byte) (s : State) : Host.Outcome State Fault Refusal :=
  .next (s.writeR Config.initValue).advance

/-- UPDATE (R70), or the fault of R72 while `r` has no value. -/
def execUpdate (b : Byte) (s : State) : Host.Outcome State Fault Refusal :=
  match s.readR with
  | .ok v => .next (s.writeR (foldByte v b)).advance
  | .error f => raise f

/-- The reserved word (R71): `raise Fault(ReservedOp(cmd))`, whether or not `r` has a value (R90). -/
def execReserved (data : Byte) (s : State) : Host.Outcome State Fault Refusal :=
  raise (.reservedOp s.cycle (encode (.reserved data)))

end Sys2Proof.Machine
end

