-- ==== Sys2Proof/Machine/Dispatch.lean ====
section
/-! DEFINITION. The case of rule R67 (41_engine_commands.md): one arm per command. -/

namespace Sys2Proof.Machine

def exec (i : Instr) (s : State) : Host.Outcome State Fault Refusal :=
  match i with
  | .nop data => Sys2Proof.Machine.execNop data s
  | .init data => Sys2Proof.Machine.execInit data s
  | .update b => Sys2Proof.Machine.execUpdate b s
  | .reserved data => Sys2Proof.Machine.execReserved data s

end Sys2Proof.Machine
end

