-- ==== Sys2Proof/Machine/Cycle.lean ====
section
/-! DEFINITION. What one cycle does with the inputs sampled for it (41_engine_commands.md R67, 60_exceptions.md R90). -/

namespace Sys2Proof.Machine

/-- `rst = 1` takes precedence and the command is ignored (R90); otherwise the decoded command runs. -/
def cycleStep (s : State) (c : CycleInput) : Host.Outcome State Fault Refusal :=
  if c.rst then .next (applyReset s) else exec (decode c.cmd) s

end Sys2Proof.Machine
end

