-- ==== Sys2Proof/Machine/Step.lean ====
section
/-! DEFINITION. The cycle step of rule R67 (41_engine_commands.md) over the host's cycle list, and how the host
presents one command. -/

namespace Sys2Proof.Machine

/-- One rising edge of `clk` (R67): no step once a fault is recorded, and the run stays stopped by that fault (R89);
otherwise the inputs sampled in this cycle decide. -/
def step (s : State) : Host.Outcome State Fault Refusal :=
  match s.fault with
  | some f => raise f
  | none =>
    match s.sampled with
    | some c => cycleStep s c
    | none => .refused .endOfRun

/-- `s` with the opcode-table word `w` on `cmd`, and `rst = 0`, in the cycle the next step applies. A number with a
bit above `cmd[9]` cannot be presented and leaves `s` as it is. Log 1. -/
def State.withFetchWord (s : State) (_nbits w : Nat) : State :=
  match commandOfNat w with
  | .ok cmd => s.present ⟨false, cmd⟩
  | .error _ => s

end Sys2Proof.Machine
end

