-- ==== Sys2Proof/Machine/Assembler.lean ====
section
/-! DEFINITION. The assembler and the listing of 30_encoding.md R52 to R57: lines as syntax, the cycles each stands
for, the reading of source text, and the listing format. What R53 to R57 leave open about text is log 13. -/

namespace Sys2Proof.Machine

/-- One line of assembler source (R52 to R56). -/
inductive AsmLine where
  | nop
  | init
  | update (b : Byte)
  | reset
  | updates (m : List Byte)
  | crc (m : List Byte)
  | idle (n : Nat)
  deriving DecidableEq, Repr

/-- A cycle with `rst = 0` presenting one command (R52). -/
def commandCycle (i : Instr) : CycleInput := ⟨false, encode i⟩

/-- `UPDATES`: one UPDATE per byte, in order (R54). -/
def updatesCycles (m : List Byte) : List CycleInput := m.map fun b => commandCycle (.update b)

/-- The cycles a line stands for: NOP and INIT by their canonical words (R53), RESET with `cmd = 0x000` (R52), the
pseudo-instructions by their expansions (R54 to R56). -/
def AsmLine.cycles : AsmLine → List CycleInput
  | .nop => [commandCycle (.nop 0x00#8)]
  | .init => [commandCycle (.init 0x00#8)]
  | .update b => [commandCycle (.update b)]
  | .reset => [⟨true, 0x000#10⟩]
  | .updates m => updatesCycles m
  | .crc m => commandCycle (.init 0x00#8) :: updatesCycles m
  | .idle n => List.replicate n (commandCycle (.nop 0x00#8))

/-- Why a line is not assembled. -/
inductive AsmError where
  /-- No mnemonic or directive of R53 to R56. -/
  | unknownMnemonic (w : List Char)
  /-- No white space between a mnemonic and what follows it. -/
  | missingSpace
  /-- Something other than a comment after the end of the command. -/
  | extraText (rest : List Char)
  /-- An operand that is none of R53's forms. -/
  | badOperand (rest : List Char)
  /-- "A value outside 0 to 255 is an assembly error" (R53). -/
  | byteOutOfRange (n : Nat)
  /-- A string without its closing quote (R54). -/
  | unterminatedString
  /-- An escape other than R54's three. -/
  | badEscape
  /-- A character that has no ASCII code (R53, R54). -/
  | notAscii (c : Char)
  deriving DecidableEq, Repr

/-- The byte a character stands for: its ASCII code (R53, R54). -/
def asciiByte (c : Char) : Except AsmError Byte :=
  if c.toNat < 128 then .ok (BitVec.ofNat 8 c.toNat) else .error (.notAscii c)

/-- The value of a hexadecimal digit in either case. -/
def digitValue (c : Char) : Option Nat :=
  let n := c.toNat
  if 48 ≤ n ∧ n ≤ 57 then some (n - 48)
  else if 97 ≤ n ∧ n ≤ 102 then some (n - 87)
  else if 65 ≤ n ∧ n ≤ 70 then some (n - 55)
  else none

/-- The digits at the head of the text in a base, read after the value `acc`, and the text after them. -/
def readDigits (base : Nat) (acc : Nat) : List Char → Nat × List Char
  | [] => (acc, [])
  | c :: cs =>
    match digitValue c with
    | some d => if d < base then readDigits base (base * acc + d) cs else (acc, c :: cs)
    | none => (acc, c :: cs)

/-- A number with at least one digit. -/
def readNumber (base : Nat) : List Char → Except AsmError (Nat × List Char)
  | [] => .error (.badOperand [])
  | c :: cs =>
    match digitValue c with
    | some d => if d < base then .ok (readDigits base d cs) else .error (.badOperand (c :: cs))
    | none => .error (.badOperand (c :: cs))

/-- A hexadecimal number `0x…` or a decimal number (R53). -/
def readNumeral (cs : List Char) : Except AsmError (Nat × List Char) :=
  match cs with
  | '0' :: 'x' :: rest => readNumber 16 rest
  | _ => readNumber 10 cs

/-- A numeral that must be a byte (R53). -/
def readNumeralByte (cs : List Char) : Except AsmError (Byte × List Char) :=
  match readNumeral cs with
  | .error e => .error e
  | .ok (n, rest) => if n < 256 then .ok (BitVec.ofNat 8 n, rest) else .error (.byteOutOfRange n)

/-- `<byte>` of UPDATE: a number, or a one-character literal (R53). -/
def readByte (cs : List Char) : Except AsmError (Byte × List Char) :=
  match cs with
  | '\'' :: c :: '\'' :: rest => (asciiByte c).map fun b => (b, rest)
  | _ => readNumeralByte cs

/-- A byte put in front of the bytes read after it. -/
def consByte (b : Except AsmError Byte) (tail : Except AsmError (List Byte × List Char)) :
    Except AsmError (List Byte × List Char) :=
  match b, tail with
  | .ok b, .ok (m, rest) => .ok (b :: m, rest)
  | .error e, _ => .error e
  | _, .error e => .error e

/-- The byte `0xHH` of an escape's two digits (R54). -/
def escapedByte (h l : Char) : Except AsmError Byte :=
  match digitValue h, digitValue l with
  | some a, some b => .ok (BitVec.ofNat 8 (16 * a + b))
  | _, _ => .error .badEscape

/-- A string's bytes up to its closing quote, and the text after it; the escapes are R54's. -/
def readString : List Char → Except AsmError (List Byte × List Char)
  | [] => .error .unterminatedString
  | '"' :: rest => .ok ([], rest)
  | '\\' :: '\\' :: rest => consByte (asciiByte '\\') (readString rest)
  | '\\' :: '"' :: rest => consByte (asciiByte '"') (readString rest)
  | '\\' :: 'x' :: h :: l :: rest => consByte (escapedByte h l) (readString rest)
  | '\\' :: _ => .error .badEscape
  | c :: rest => consByte (asciiByte c) (readString rest)

/-- A quoted string (R54). -/
def readQuoted (cs : List Char) : Except AsmError (List Byte × List Char) :=
  match cs with
  | '"' :: rest => readString rest
  | _ => .error (.badOperand cs)

/-- White space between the parts of a line: DESIGN CHOICE (log 13), since R53 does not say. Safe for the engine. -/
def isBlank (c : Char) : Bool := c == ' ' || c == '\t'

/-- A letter of a mnemonic. -/
def isLetter (c : Char) : Bool := (65 ≤ c.toNat && c.toNat ≤ 90) || (97 ≤ c.toNat && c.toNat ≤ 122)

/-- Mnemonics are case-insensitive (R53). -/
def upperCase (c : Char) : Nat := if 97 ≤ c.toNat ∧ c.toNat ≤ 122 then c.toNat - 32 else c.toNat

/-- Whether only white space or a comment is left: `;` begins a comment that runs to the end of the line (R53). -/
def restIsComment (cs : List Char) : Bool :=
  match cs.dropWhile isBlank with
  | [] => true
  | c :: _ => c == ';'

/-- A line is complete when nothing but a comment is left after its operand. -/
def finishLine (l : AsmLine) (rest : List Char) : Except AsmError (Option AsmLine) :=
  if restIsComment rest then .ok (some l) else .error (.extraText rest)

/-- A line whose operand has been read. -/
def finishWith {α : Type} (build : α → AsmLine) (read : Except AsmError (α × List Char)) :
    Except AsmError (Option AsmLine) :=
  match read with
  | .ok (a, rest) => finishLine (build a) rest
  | .error e => .error e

/-- Whether a mnemonic, in capitals, is the one written here. -/
def isMnemonic (w : List Char) (name : List Char) : Bool := w.map upperCase == name.map Char.toNat

/-- A line whose mnemonic `w` has been read and whose text after it is `rest` (R53 to R56). -/
def readOperands (w rest : List Char) : Except AsmError (Option AsmLine) :=
  let operand := rest.dropWhile isBlank
  if isMnemonic w ['N', 'O', 'P'] then finishLine .nop rest
  else if isMnemonic w ['I', 'N', 'I', 'T'] then finishLine .init rest
  else if isMnemonic w ['R', 'E', 'S', 'E', 'T'] then finishLine .reset rest
  else if isMnemonic w ['U', 'P', 'D', 'A', 'T', 'E'] then finishWith .update (readByte operand)
  else if isMnemonic w ['U', 'P', 'D', 'A', 'T', 'E', 'S'] then finishWith .updates (readQuoted operand)
  else if isMnemonic w ['C', 'R', 'C'] then finishWith .crc (readQuoted operand)
  else if isMnemonic w ['I', 'D', 'L', 'E'] then finishWith .idle (readNumber 10 operand)
  else .error (.unknownMnemonic w)

/-- One line of source: nothing, or one command or directive (R53). -/
def readLine (line : List Char) : Except AsmError (Option AsmLine) :=
  let cs := line.dropWhile isBlank
  if restIsComment cs then .ok none
  else
    let rest := cs.dropWhile isLetter
    if restIsComment rest || rest.head?.any isBlank then readOperands (cs.takeWhile isLetter) rest
    else .error .missingSpace

/-- Source text as its lines. DESIGN CHOICE (log 13): R53 does not say what ends a line; here the line feed alone does,
and a carriage return is an ordinary character, no white space. Safe for the engine. -/
def splitLines : List Char → List (List Char)
  | [] => [[]]
  | c :: cs =>
    if c == '\n' then [] :: splitLines cs
    else match splitLines cs with
      | l :: ls => (c :: l) :: ls
      | [] => [[c]]

/-- The cycles of lines in order; the first bad line stops the assembly. -/
def assembleLines : List (List Char) → Except AsmError (List CycleInput)
  | [] => .ok []
  | l :: ls =>
    match readLine l, assembleLines ls with
    | .ok (some a), .ok cs => .ok (a.cycles ++ cs)
    | .ok none, .ok cs => .ok cs
    | .error e, _ => .error e
    | _, .error e => .error e

/-- Source text assembled into the host's cycle list (R57: applied from cycle 0 in order). -/
def assemble (text : List Char) : Except AsmError (List CycleInput) := assembleLines (splitLines text)

/-- A hexadecimal digit of a listing. -/
def listingDigit (n : BitVec 4) : Char :=
  if n < 10#4 then Char.ofNat (48 + n.toNat) else Char.ofNat (55 + n.toNat)

/-- One entry of a listing: `rst`, and the word as three hexadecimal digits, as in `0 0x231` (R57). -/
def listingEntry (c : CycleInput) : List Char :=
  [if c.rst then '1' else '0', ' ', '0', 'x', listingDigit ((c.cmd.extractLsb' 8 2).setWidth 4),
   listingDigit (c.cmd.extractLsb' 4 4), listingDigit (c.cmd.extractLsb' 0 4)]

/-- An assembled program's listing, one entry per cycle in order (R57). -/
def listing (cs : List CycleInput) : List (List Char) := cs.map listingEntry

/-- The `rst` of a listing's entry. -/
def readRst (c : Char) : Option Bool :=
  if c == '0' then some false else if c == '1' then some true else none

/-- The 10-bit word of a listing's three digits; digits above 0x3FF are no command. -/
def readWord (a b c : Char) : Option Command :=
  match digitValue a, digitValue b, digitValue c with
  | some x, some y, some z =>
    match commandOfNat (256 * x + 16 * y + z) with
    | .ok w => some w
    | .error _ => none
  | _, _, _ => none

/-- A listing's entry read back (R57). -/
def readEntry (cs : List Char) : Option CycleInput :=
  match cs with
  | [r, ' ', '0', 'x', a, b, c] =>
    match readRst r, readWord a b c with
    | some rst, some w => some ⟨rst, w⟩
    | _, _ => none
  | _ => none

end Sys2Proof.Machine
end

