-- ==== Sys2Proof/Machine/Outputs.lean ====
section
/-! DEFINITION. The result stage (42_result_output.md R80 to R85), the table-index wires (10_state.md R25), and the
host's reading of the outputs (R81, 60_exceptions.md R89). All are functions of the state, never state (R26). -/

namespace Sys2Proof.Machine

/-- `fin = ~r` (R80). -/
def finalise (r : Word) : Word := ~~~r

/-- `crc_out = bswap32(~r)` (R81), the one place where the result's byte order is decided (R34; conflict C1). -/
def crcOutOf (r : Word) : Word := bswap32 (finalise r)

/-- The ASCII code of the lowercase hexadecimal digit for `n` (R83). -/
def hexDigit (n : BitVec 4) : Byte :=
  if n < 10#4 then 0x30#8 + n.setWidth 8 else 0x61#8 + (n.setWidth 8 - 10#8)

/-- `v[31-4k : 28-4k]`: nibble `k` of a word, counted from the most significant (R84). -/
def nibble (v : Word) (k : Nat) : BitVec 4 := v.extractLsb' (28 - 4 * k) 4

/-- The characters `c[0]` to `c[7]` of a numeric result (R84). -/
def hexChars (v : Word) : List Byte :=
  (List.range Config.hexLen).map fun k => hexDigit (nibble v k)

/-- Eight characters as the port holds them: the first in the most significant byte (R84). -/
def packChars (cs : List Byte) : HexPort :=
  cs.foldl (fun port c => (port <<< 8) ||| c.setWidth 64) 0#64

/-- `crc_hex` of a numeric result (R84). -/
def crcHexOf (v : Word) : HexPort := packChars (hexChars v)

/-- The host reads `crc_out`: `UnwrittenRegister` while `r` has no value (R81). -/
def State.crcOut (s : State) : Except Fault Word := s.readR.map crcOutOf

/-- The host reads `crc_hex`, driven from the same `r` (R84, R85). -/
def State.crcHex (s : State) : Except Fault HexPort := s.readR.map fun v => crcHexOf (crcOutOf v)

/-- `rom_addr` in a cycle, whatever `op` and `rst` are (R25); a free value while `r` has none (U4, log 5). -/
def State.romAddr (s : State) (c : CycleInput) : Byte :=
  match s.r with
  | some v => tableIndex v (dataField c.cmd)
  | none => Config.romAddrUnwritten s.cycle c.cmd

/-- `rom_data` in a cycle: the engine is wired to its own table and to no other (R25). -/
def State.romData (s : State) (c : CycleInput) : Word := romRead (s.romAddr c)

/-- What a run shows at its end (R12). -/
structure Observation where
  crcOut : Word
  crcHex : HexPort
  deriving DecidableEq, Repr

/-- The observation of R12: none once a fault is recorded, and a read of an unwritten register faults (R81). -/
def State.observe (s : State) : Except Fault Observation :=
  match s.fault with
  | some f => .error f
  | none => s.readR.map fun v => ⟨crcOutOf v, crcHexOf (crcOutOf v)⟩

/-- The state after the host has read the outputs: unchanged (R37), but that a read that faults is recorded (R89,
log 17). -/
def State.afterRead (s : State) : State :=
  match s.readR with
  | .ok _ => s
  | .error f => s.record f

end Sys2Proof.Machine
end

