-- ==== Sys2Proof/Machine/Reference.lean ====
section
/-! DEFINITION. The reference function of 42_result_output.md R86, the fold of a message (41_engine_commands.md R73),
the same fold taken bit by bit without a table, and a cycle list read as the message events of 20_memory.md R31. -/

namespace Sys2Proof.Machine

/-- R70 applied to the bytes of a message in order (R32). -/
def foldBytes (r : Word) (m : List Byte) : Word := m.foldl foldByte r

/-- `fold(m)`: the register value of source §4.2 steps 1 and 2 (R73). -/
def fold (m : List Byte) : Word := foldBytes Config.initValue m

/-- `CRC32A(m)` (R86). -/
def crc32a (m : List Byte) : Word := bswap32 (~~~(fold m))

/-- `CRC32A_hex(m)`: the 8 characters of R84 applied to `CRC32A(m)` (R86). -/
def crc32aHex (m : List Byte) : List Byte := hexChars (crc32a m)

/-- One message bit divided by the polynomial: it meets bit 31, and the register shifts left (R33, R60). -/
def foldBit (r : Word) (bit : Bool) : Word :=
  if r.getLsbD 31 ^^ bit then (r <<< 1) ^^^ Config.poly else r <<< 1

/-- The bits of a byte in the order they are divided: bit 7 first (R33). -/
def bitsMsbFirst (b : Byte) : List Bool := [7, 6, 5, 4, 3, 2, 1, 0].map fun k => b.getLsbD k

/-- The fold of a byte by long division, with no table. -/
def foldByteBitwise (r : Word) (b : Byte) : Word := (bitsMsbFirst b).foldl foldBit r

/-- What a cycle means for the message in hand (R31, R32). -/
inductive Event where
  /-- An INIT, or a cycle with `rst = 1`: a message starts (R104). -/
  | start
  /-- An UPDATE: the message's next byte. -/
  | byte (b : Byte)
  /-- The reserved encoding with `rst = 0`: no meaning (R49). -/
  | invalid (w : Command)
  deriving DecidableEq, Repr

/-- The event of one cycle; a NOP is none (R32). -/
def eventOf (c : CycleInput) : Option Event :=
  if c.rst then some .start
  else match decode c.cmd with
    | .nop _ => none
    | .init _ => some .start
    | .update b => some (.byte b)
    | .reserved _ => some (.invalid c.cmd)

/-- The events of a cycle list, in order. -/
def events (cs : List CycleInput) : List Event := cs.filterMap eventOf

end Sys2Proof.Machine
end

