-- ==== Sys2Proof/Machine/Run.lean ====
section
/-! DEFINITION. Runs (00_scope.md R12) with the fault record they leave (60_exceptions.md R89), what the host sees
cycle by cycle (20_memory.md R41), and several engines side by side (10_state.md R28). -/

namespace Sys2Proof.Machine

/-- The state the model is in after an edge: a fault enters the record and leaves the rest as it was (R71, R89);
where the run has ended nothing changes (R12). -/
def State.settle (s : State) (o : Host.Outcome State Fault Refusal) : State :=
  match o with
  | .next t => t
  | .fault f => s.record f
  | .refused _ => s

/-- The state after a cycle in which the host drives `c`. -/
def State.clock (s : State) (c : CycleInput) : State :=
  s.settle (step (s.withInputs (c :: s.inputs)))

/-- The state after the edge of the last cycle of a list (R12). -/
def State.runCycles (s : State) : List CycleInput → State
  | [] => s
  | c :: cs => (s.clock c).runCycles cs

/-- The states of a run in cycle order: the state in which each cycle's command is presented, then the last one. -/
def State.trace (s : State) : List CycleInput → List State
  | [] => [s]
  | c :: cs => s :: (s.clock c).trace cs

/-- The observation of a run (R12). -/
def State.observeRun (s : State) (cs : List CycleInput) : Except Fault Observation :=
  (s.runCycles cs).observe

/-- One cycle of several engines, each driven by its own host: engines share no written state and exchange no signal,
and all read the same table (R28, R96). Log 16. -/
def clockEngines : List State → List CycleInput → List State
  | s :: ss, c :: cs => s.clock c :: clockEngines ss cs
  | ss, _ => ss

end Sys2Proof.Machine
end

