-- ==== Sys2Proof/Safety.lean ====
section
/-! DEFINITION. The terms claims about runs are stated in: an engine that is ready (70_reset_and_hazards.md R102), a
cycle list without a reserved word, and reaching the end of a list. -/

namespace Sys2Proof.Machine

/-- No fault is recorded and `r` has a value: what a reset or an INIT establishes (R102). -/
abbrev State.Ready (s : State) : Prop := s.fault = none ∧ s.r ≠ none

/-- A cycle that presents the reserved encoding outside reset (R71, R90). -/
def CycleInput.reservedWord (c : CycleInput) : Bool := !c.rst && opField c.cmd == 0b11#2

/-- A list every cycle of which has a meaning. -/
abbrev NoReserved (cs : List CycleInput) : Prop := ∀ c ∈ cs, CycleInput.reservedWord c = false

/-- The machine, given `cs` and then `rest` as the host's list, steps through all of `cs` and is then in `t`. -/
def Completes (s : State) (cs rest : List CycleInput) (t : State) : Prop :=
  Host.Core.run Sys2Proof.core cs.length (s.withInputs (cs ++ rest)) = .next t

/-- The invariant of a run of `n` cycles: the engine is ready, and the cycles applied and the cycles left make `n`. -/
abbrev State.RunInv (n : Nat) (s : State) : Prop := s.Ready ∧ s.cycle + s.inputs.length = n

end Sys2Proof.Machine
end

