-- ==== Sys2Proof/WellFormed.lean ====
section
/-! DEFINITION. Which commands an assembler may emit. A restriction on what is WRITTEN, never on what is executed:
the decoder accepts all 1024 words (R46, R50), and no meaning has well-formedness as a premise. Log 11. -/

namespace Sys2Proof

/-- R50: the assembler emits `data = 0x00` for NOP and INIT. R49: it refuses to emit the reserved encoding. R53:
UPDATE takes any byte. -/
def Instr.wellFormed : Instr → Bool
  | .nop data => data == 0x00#8
  | .init data => data == 0x00#8
  | .update _ => true
  | .reserved _ => false

end Sys2Proof
end

