-- ==== Sys2Proof/Certificates/Slice0/Obligations.lean ====
section
/-! DEFINITION. The statements for the provers. Each docstring names the rules of spec/ it formalises or rests on;
OBLIGATIONS.json lists them. -/

open Sys2Proof Sys2Proof.Machine

/-! ## Encoding -/

/-- Words of 95_test_vectors.md sections 2.2 to 2.5, written out from the fields of R45. -/
def Obligations.SpecWordsDecode : Prop :=
  decode 0b0000000000#10 = .nop 0x00#8 ∧ decode 0b0011111111#10 = .nop 0xFF#8 ∧
  decode 0b0100000000#10 = .init 0x00#8 ∧ decode 0b0110100101#10 = .init 0xA5#8 ∧
  decode 0b1000110001#10 = .update 0x31#8 ∧ decode 0b1011111111#10 = .update 0xFF#8 ∧
  decode 0b1100000000#10 = .reserved 0x00#8 ∧ decode 0b1110100101#10 = .reserved 0xA5#8

/-- R48: the ranges of words, and `mask` = 0x300 with `match` = `op << 8`. -/
def Obligations.OpcodeMapByRange : Prop :=
  ∀ w : Command,
    (w.toNat ≤ 0x0FF → opField w = 0b00#2 ∧ decode w = .nop (dataField w)) ∧
    (0x100 ≤ w.toNat ∧ w.toNat ≤ 0x1FF → opField w = 0b01#2 ∧ decode w = .init (dataField w)) ∧
    (0x200 ≤ w.toNat ∧ w.toNat ≤ 0x2FF → opField w = 0b10#2 ∧ decode w = .update (dataField w) ∧
      w = 0x200#10 ||| (dataField w).setWidth 10) ∧
    (0x300 ≤ w.toNat → opField w = 0b11#2 ∧ decode w = .reserved (dataField w)) ∧
    opcodeRows.map OpcodeRow.mnemonic = ["NOP", "INIT", "UPDATE", "RESERVED"] ∧
    ∀ row ∈ opcodeRows, row.mask = 0x300#10 ∧
      (w &&& row.mask = row.value ↔ (opField w).setWidth 10 <<< 8 = row.value) ∧
      (w &&& row.mask = row.value ↔ row.mnemonic = (decode w).mnemonic)

/-- R46: the decoder is total and each word is exactly one of the four; a command is one word and takes one cycle,
and nothing but the word decides what it decodes to. -/
def Obligations.OneWordOneCommandOneCycle : Prop :=
  (∀ w : Command, (opcodeRows.filter fun row => row.matches w).map OpcodeRow.mnemonic = [(decode w).mnemonic]) ∧
  (∀ (s : State) (c : CycleInput) (cs : List CycleInput), s.fault = none → s.inputs = c :: cs → c.rst = false →
    step s = exec (decode c.cmd) s) ∧
  (∀ (i : Instr) (s t : State), exec i s = .next t → t.inputs = s.inputs.tail ∧ t.cycle = s.cycle + 1)

/-- No bit of a command is dropped (R45, R47): decode of encode is the instruction, for every instruction. -/
def Obligations.DecodeEncodeRoundTrip : Prop := ∀ i : Instr, decode (encode i) = i

/-- Every word has one reading (R46): encode of decode is the word. -/
def Obligations.EncodeDecodeRoundTrip : Prop := ∀ w : Command, encode (decode w) = w

/-- R50: the ignored field of NOP and INIT. -/
def Obligations.NopAndInitIgnoreData : Prop :=
  (∀ (d d' : Byte) (s : State), exec (.nop d) s = exec (.nop d') s ∧ exec (.init d) s = exec (.init d') s) ∧
  (∀ w : Command, (opField w = 0b00#2 → decode w = .nop (dataField w)) ∧
    (opField w = 0b01#2 → decode w = .init (dataField w))) ∧
  (∀ (s : State) (c : CycleInput) (v : Word), s.r = some v →
    s.romAddr c = v.extractLsb' 24 8 ^^^ c.cmd.extractLsb' 0 8) ∧
  AsmLine.nop.cycles = [⟨false, 0x000#10⟩] ∧ AsmLine.init.cycles = [⟨false, 0x100#10⟩] ∧
  encode (.nop 0x00#8) = 0x000#10 ∧ encode (.init 0x00#8) = 0x100#10

/-! ## The step -/

/-- With no fault recorded and `rst = 0`, a step is `exec` of the decoded command, nothing around it (R67). The
register write, the position and the used-up entry are all inside the meaning (log 1). -/
def Obligations.StepRunsDecodedCommand : Prop :=
  ∀ (s : State) (c : CycleInput) (cs : List CycleInput),
    s.fault = none → s.inputs = c :: cs → c.rst = false → step s = exec (decode c.cmd) s

/-- The model's own way to present one word (log 1, log 12): the next step runs what the decoder reads from it. -/
def Obligations.PresentedWordRuns : Prop :=
  ∀ (s : State) (nbits w : Nat), s.fault = none → w < 1024 →
    ∃ i, decodeTableWord nbits w = some i ∧
      step (s.withFetchWord nbits w) = exec i (s.withFetchWord nbits w)

/-- R100: reset. That a step at a recorded fault answers that fault again is log 2's reading of R67's "no step", the
model's choice; R100 says only that reset does not clear the fault. -/
def Obligations.ResetCycleSetsRegister : Prop :=
  (∀ (s : State) (cmd : Command) (cs : List CycleInput), s.fault = none → s.inputs = ⟨true, cmd⟩ :: cs →
    step s = .next { s with r := some 0xFFFFFFFF#32, cycle := s.cycle + 1, inputs := cs } ∧
    ∀ d : Byte, step s = exec (.init d) s) ∧
  (∀ (s : State) (cmd : Command) (b : Byte) (cs : List CycleInput), s.fault = none →
    s.inputs = ⟨true, cmd⟩ :: ⟨false, encode (.update b)⟩ :: cs →
    ∃ t u, step s = .next t ∧ step t = .next u ∧ u.r = some (fold [b])) ∧
  (∀ (s : State) (f : Fault) (cmd : Command), s.fault = some f →
    step (s.present ⟨true, cmd⟩) = .fault f ∧ (s.clock ⟨true, cmd⟩).fault = some f)

/-- R101: every cycle of a reset of any length leaves 0xFFFFFFFF, whatever is on `cmd`, and the first cycle after it
runs its command normally. -/
def Obligations.ResetOfAnyLength : Prop :=
  (∀ (s : State) (c : CycleInput) (cs rest : List CycleInput), s.fault = none →
    (∀ d ∈ c :: cs, CycleInput.rst d = true) →
    ∃ t, Completes s (c :: cs) rest t ∧ t.r = some 0xFFFFFFFF#32 ∧ t.fault = none ∧
      t.cycle = s.cycle + (c :: cs).length ∧ t.inputs = rest) ∧
  (∀ (t : State) (cmd : Command) (cs : List CycleInput), t.fault = none → t.inputs = ⟨false, cmd⟩ :: cs →
    step t = exec (decode cmd) t)

/-- R27: the value of every piece of state and of every output after a cycle with `rst = 1`; State.reset has the same
register and outputs (its `fault`, `cycle` and `inputs` rest on log 1 to log 3 and are not stated here). -/
def Obligations.ValuesAfterReset : Prop :=
  (∀ (s : State) (c : CycleInput) (cs : List CycleInput), s.fault = none → s.inputs = c :: cs → c.rst = true →
    ∃ t, step s = .next t ∧ t.r = some 0xFFFFFFFF#32 ∧ t.crcOut = .ok 0x00000000#32 ∧
      t.crcHex = .ok 0x3030303030303030#64 ∧ (∀ d : CycleInput, t.romAddr d = 0xFF#8 ^^^ d.cmd.extractLsb' 0 8) ∧
      (∀ d : CycleInput, t.romData d = romRead (t.romAddr d)) ∧ t.fault = s.fault) ∧
  (∀ (s : State) (f : Fault) (c : CycleInput), s.fault = some f → (s.clock c).fault = some f) ∧
  State.reset.r = some 0xFFFFFFFF#32 ∧ State.reset.crcOut = .ok 0x00000000#32 ∧
  State.reset.crcHex = .ok 0x3030303030303030#64 ∧ State.powerUp.r = none

/-- R102, R21: nothing is readable at power-up, UPDATE faults there, and one reset or one INIT makes the engine
ready. The index 0 of a fault at power-up is the model's choice (log 3). -/
def Obligations.PowerUpNeedsResetOrInit : Prop :=
  State.powerUp.r = none ∧ State.powerUp.fault = none ∧
  State.powerUp.crcOut = .error (.unwrittenRegister 0) ∧ State.powerUp.crcHex = .error (.unwrittenRegister 0) ∧
  (∀ b : Byte, exec (.update b) State.powerUp = .fault (.unwrittenRegister 0)) ∧
  ∀ (s : State) (c : CycleInput) (cs : List CycleInput), s.fault = none → s.inputs = c :: cs →
    (c.rst = true ∨ opField c.cmd = 0b01#2) → ∃ t, step s = .next t ∧ t.Ready

/-- R90: the priority of simultaneous events. -/
def Obligations.EventPriority : Prop :=
  ∀ (s : State) (c : CycleInput) (cs : List CycleInput), s.fault = none → s.inputs = c :: cs →
    (c.rst = true → ∃ t, step s = .next t ∧ t.r = some 0xFFFFFFFF#32) ∧
    (c.rst = false ∧ opField c.cmd = 0b11#2 → step s = .fault (.reservedOp s.cycle c.cmd)) ∧
    (step s = .fault (.unwrittenRegister s.cycle) ↔ c.rst = false ∧ opField c.cmd = 0b10#2 ∧ s.r = none)

/-- The model ends a run by a refusal exactly where the list is used up (R12; the choice of log 1). -/
def Obligations.RunEndsWithTheList : Prop :=
  ∀ s : State, (∃ ρ, step s = .refused ρ) ↔ s.fault = none ∧ s.inputs = []

/-! ## The commands -/

/-- R68: NOP. -/
def Obligations.NopChangesNothing : Prop :=
  (∀ w : Command, opField w = 0b00#2 → decode w = .nop (dataField w)) ∧ encode (.nop 0x00#8) = 0x000#10 ∧
  (∀ (d : Byte) (s : State),
    exec (.nop d) s = .next { s with cycle := s.cycle + 1, inputs := s.inputs.tail }) ∧
  (∀ (s : State) (cs rest : List CycleInput), s.fault = none →
    (∀ c ∈ cs, CycleInput.rst c = false ∧ opField c.cmd = 0b00#2) →
    ∃ t, Completes s cs rest t ∧ t.r = s.r ∧
      ∀ v, s.r = some v → t.crcOut = s.crcOut ∧ t.crcHex = s.crcHex) ∧
  (∀ (d : Byte) (s : State), s.r = some 0x0376E6E7#32 →
    ∃ t, exec (.nop d) s = .next t ∧ t.r = some 0x0376E6E7#32 ∧ t.crcOut = .ok 0x181989FC#32)

/-- R69: INIT. -/
def Obligations.InitStartsMessage : Prop :=
  (∀ w : Command, opField w = 0b01#2 → decode w = .init (dataField w)) ∧ encode (.init 0x00#8) = 0x100#10 ∧
  (∀ (d : Byte) (s : State), exec (.init d) s =
    .next { s with r := some 0xFFFFFFFF#32, cycle := s.cycle + 1, inputs := s.inputs.tail }) ∧
  (∀ (d d' : Byte) (s : State), ∃ t u, exec (.init d) s = .next t ∧ exec (.init d') t = .next u ∧ u.r = t.r) ∧
  (∀ (d : Byte) (s : State), ∃ t, exec (.init d) s = .next t ∧ t.r = (applyReset s).r) ∧
  (∀ (d : Byte) (s : State), s.r = some 0x9EFBCF93#32 →
    ∃ t, exec (.init d) s = .next t ∧ t.r = some 0xFFFFFFFF#32 ∧ t.crcOut = .ok 0x00000000#32)

/-- R70: UPDATE, in both forms of the rule, with its corner cases and its example. -/
def Obligations.UpdateFoldsByte : Prop :=
  (∀ w : Command, opField w = 0b10#2 → decode w = .update (dataField w)) ∧
  (∀ b : Byte, encode (.update b) = 0x200#10 ||| b.setWidth 10) ∧
  (∀ (b : Byte) (s : State) (v : Word), s.r = some v →
    exec (.update b) s = .next { s with
      r := some ((v <<< 8) ^^^ romRead (v.extractLsb' 24 8 ^^^ b)),
      cycle := s.cycle + 1, inputs := s.inputs.tail }) ∧
  (∀ (b : Byte) (v : Word), v.extractLsb' 24 8 ^^^ b = (((v >>> 24) ^^^ b.setWidth 32) &&& 0xFF#32).setWidth 8) ∧
  (∀ (b : Byte) (s : State), s.r = none → exec (.update b) s = .fault (.unwrittenRegister s.cycle)) ∧
  (∀ v : Word, (v <<< 8).extractLsb' 0 8 = 0x00#8 ∧ (v <<< 8).extractLsb' 8 24 = v.extractLsb' 0 24) ∧
  (∀ (b : Byte) (v : Word), v.extractLsb' 24 8 = b → foldByte v b = v <<< 8) ∧
  foldByte 0xFFFFFFFF#32 0xFF#8 = 0xFFFFFF00#32 ∧
  (∀ b : Byte, foldByte 0x00000000#32 b = romRead b) ∧ foldByte 0x00000000#32 0x00#8 = 0x00000000#32 ∧
  fold [0xFF#8, 0xFF#8, 0xFF#8, 0xFF#8] = 0x00000000#32 ∧
  tableIndex 0xFFFFFFFF#32 0x31#8 = 0xCE#8 ∧ romRead 0xCE#8 = 0x61043093#32 ∧
  foldByte 0xFFFFFFFF#32 0x31#8 = 0x9EFBCF93#32

/-- R71: the reserved word. Two clauses rest on the model's choices: that a step at a recorded fault answers that fault
again and where the record is kept (log 2), and the index 1 of the example's fault in a run from power-up (log 3). -/
def Obligations.ReservedWordFaults : Prop :=
  (∀ w : Command, opField w = 0b11#2 → decode w = .reserved (dataField w)) ∧
  (∀ (w : Command) (s : State), opField w = 0b11#2 → exec (decode w) s = .fault (.reservedOp s.cycle w)) ∧
  (∀ (s : State) (w : Command) (cs : List CycleInput), s.fault = none → s.inputs = ⟨true, w⟩ :: cs →
    ∃ t, step s = .next t) ∧
  (∀ (s : State) (w : Command), s.fault = none → opField w = 0b11#2 →
    (s.clock ⟨false, w⟩).r = s.r ∧ (s.clock ⟨false, w⟩).fault = some (.reservedOp s.cycle w) ∧
    (∀ c : CycleInput, step ((s.clock ⟨false, w⟩).present c) = .fault (.reservedOp s.cycle w)) ∧
    ∀ cs : List CycleInput, s.observeRun (⟨false, w⟩ :: cs) = .error (.reservedOp s.cycle w)) ∧
  (State.powerUp.runCycles [⟨true, 0x000#10⟩, ⟨false, 0x3A5#10⟩]).fault = some (.reservedOp 1 0x3A5#10)

/-- R72: an UPDATE on a register without a value; and no event but a reset or an INIT gives it one. -/
def Obligations.UpdateOfUnwrittenRegisterFaults : Prop :=
  (∀ (b : Byte) (s : State), s.r = none → exec (.update b) s = .fault (.unwrittenRegister s.cycle)) ∧
  State.powerUp.r = none ∧
  ∀ (s t : State) (c : CycleInput) (cs : List CycleInput), s.inputs = c :: cs → s.r = none →
    step s = .next t → (t.r = none ↔ c.rst = false ∧ opField c.cmd ≠ 0b01#2)

/-- The frame of every command: what it changes, and that it changes nothing else (R13, R14, R16, R17). Memory has
none but the constant table (R30, R42). -/
def Obligations.CommandFrame : Prop :=
  ∀ (i : Instr) (s t : State), exec i s = .next t →
    t.fault = s.fault ∧ t.cycle = s.cycle + 1 ∧ t.inputs = s.inputs.tail ∧
    match i with
    | .nop _ => t.r = s.r
    | .init _ => t.r = some 0xFFFFFFFF#32
    | .update b => ∃ v, s.r = some v ∧ t.r = some (foldByte v b)
    | .reserved _ => False

/-- R14: `r` is written by reset, INIT and UPDATE, and by no other event. -/
def Obligations.OnlyResetInitUpdateWriteRegister : Prop :=
  ∀ s t : State, step s = .next t → t.r ≠ s.r →
    ∃ c cs, s.inputs = c :: cs ∧ (c.rst = true ∨ opField c.cmd = 0b01#2 ∨ opField c.cmd = 0b10#2)

/-! ## The table and its wires -/

/-- R60 and R65: `T[b]` is eight of R60's iterations from `b << 24`, and the listing holds exactly these entries. -/
def Obligations.TableHoldsGeneratedListing : Prop :=
  romListing.length = Config.tableEntries ∧ Config.tableEntries = 256 ∧
  ∀ b : Byte,
    romRead b = (fun v : Word => if v.getLsbD 31 then (v <<< 1) ^^^ 0x04C11DB7#32 else v <<< 1)^[8]
      (b.setWidth 32 <<< 24) ∧
    romListing[b.toNat]? = some (romRead b)

/-- R64: the table's properties. -/
def Obligations.TableIsLinearWithDistinctEntries : Prop :=
  romRead 0x00#8 = 0x00000000#32 ∧ romRead 0x01#8 = 0x04C11DB7#32 ∧
  (∀ a b : Byte, romRead (a ^^^ b) = romRead a ^^^ romRead b) ∧
  (∀ b : Byte, romRead b =
    (List.range 8).foldl (fun v k => if b.getLsbD k then v ^^^ romRead (1#8 <<< k) else v) 0#32) ∧
  romRead 0x80#8 = 0x690CE0EE#32 ∧ romRead 0xFF#8 = 0xB1F740B4#32 ∧
  (∀ a b : Byte, romRead a = romRead b → a = b)

/-- R25: the table-index output, and the wiring an UPDATE uses. -/
def Obligations.TableIndexWires : Prop :=
  (∀ (s : State) (v : Word) (rst : Bool) (cmd : Command), s.r = some v →
    s.romAddr ⟨rst, cmd⟩ = v.extractLsb' 24 8 ^^^ cmd.extractLsb' 0 8 ∧
    s.romAddr ⟨rst, cmd⟩ = (((v >>> 24) ^^^ (cmd.extractLsb' 0 8).setWidth 32) &&& 0xFF#32).setWidth 8) ∧
  (∀ (s : State) (c : CycleInput), s.romData c = romRead (s.romAddr c)) ∧
  (∀ (s : State) (cmd : Command) (cs : List CycleInput), s.fault = none → s.inputs = ⟨false, cmd⟩ :: cs →
    opField cmd = 0b10#2 →
    (∀ v, s.r = some v → ∃ t, step s = .next t ∧ t.r = some ((v <<< 8) ^^^ s.romData ⟨false, cmd⟩)) ∧
    (s.r = none → step s = .fault (.unwrittenRegister s.cycle)))

/-! ## The result stage -/

/-- R80, R81: finalisation and the numeric result. -/
def Obligations.NumericResult : Prop :=
  (∀ v : Word, finalise v = ~~~v ∧ finalise v = v ^^^ Config.finalXor ∧ Config.finalXor = 0xFFFFFFFF#32) ∧
  (∀ (s : State) (v : Word), s.r = some v →
    s.crcOut = .ok ((~~~v).extractLsb' 0 8 ++ (~~~v).extractLsb' 8 8 ++ (~~~v).extractLsb' 16 8 ++
      (~~~v).extractLsb' 24 8) ∧
    s.afterRead = s ∧ ∀ b, exec (.update b) s.afterRead = exec (.update b) s) ∧
  (∀ s : State, s.r = none → s.crcOut = .error (.unwrittenRegister s.cycle)) ∧
  fold [0x31#8, 0x32#8, 0x33#8, 0x34#8, 0x35#8, 0x36#8, 0x37#8, 0x38#8, 0x39#8] = 0x0376E6E7#32 ∧
  finalise 0x0376E6E7#32 = 0xFC891918#32 ∧ crcOutOf 0x0376E6E7#32 = 0x181989FC#32 ∧
  0x181989FC#32 = 404326908#32 ∧ fold [] = 0xFFFFFFFF#32 ∧ crcOutOf 0xFFFFFFFF#32 = 0x00000000#32

/-- R14: the mapping from `r` to `crc_out` is a bijection. -/
def Obligations.RegisterRecoverableFromResult : Prop :=
  (∀ a b : Word, crcOutOf a = crcOutOf b → a = b) ∧ ∀ x : Word, ∃ v : Word, crcOutOf v = x

/-- R83: the digits of the hexadecimal form. -/
def Obligations.HexDigitCodes : Prop :=
  ∀ n : BitVec 4,
    (n.toNat ≤ 9 → (hexDigit n).toNat = 0x30 + n.toNat) ∧
    (10 ≤ n.toNat → (hexDigit n).toNat = 0x61 + (n.toNat - 10)) ∧
    ¬(0x41 ≤ (hexDigit n).toNat ∧ (hexDigit n).toNat ≤ 0x5A)

/-- R84: the eight characters and where the port holds them. -/
def Obligations.HexPortLayout : Prop :=
  (∀ (s : State) (v x : Word), s.r = some v → s.crcOut = .ok x →
    s.crcHex = .ok (crcHexOf x) ∧ (hexChars x).length = 8 ∧
    ∀ k < 8, (hexChars x)[k]? = some (hexDigit (x.extractLsb' (28 - 4 * k) 4)) ∧
      (crcHexOf x).extractLsb' (56 - 8 * k) 8 = hexDigit (x.extractLsb' (28 - 4 * k) 4)) ∧
  crcHexOf 0x181989FC#32 = 0x3138313938396663#64 ∧
  crc32a [0x64#8] = 0x00F0560E#32 ∧ crcHexOf 0x00F0560E#32 = 0x3030663035363065#64

/-- R85: the two forms never disagree. -/
def Obligations.HexFormAgreesWithNumeric : Prop :=
  (∀ (s : State) (v : Word), s.r = some v →
    ∃ x, s.crcOut = .ok x ∧ s.crcHex = .ok (packChars ((List.range 8).map fun k => hexDigit (nibble x k)))) ∧
  (∀ x y : Word, crcHexOf x = crcHexOf y → x = y) ∧
  (∀ (s t : State) (v w : Word), s.r = some v → t.r = some w → (s.crcOut = t.crcOut ↔ s.crcHex = t.crcHex))

/-- R26: the outputs are functions of `r` alone. -/
def Obligations.OutputsDependOnRegisterAlone : Prop :=
  (∀ (s t : State) (v : Word), s.r = some v → t.r = some v → s.crcOut = t.crcOut ∧ s.crcHex = t.crcHex) ∧
  (∀ (s : State) (c : CycleInput), (s.present c).crcOut = s.crcOut ∧ (s.present c).crcHex = s.crcHex) ∧
  (∀ (s t : State) (v : Word), s.r = some v → step s = .next t → t.crcOut ≠ s.crcOut ∨ t.crcHex ≠ s.crcHex →
    t.r ≠ s.r ∧ t.crcOut ≠ s.crcOut ∧ t.crcHex ≠ s.crcHex)

/-- R41, R105: in cycle `k` both outputs show the register as the cycles before `k` left it, whatever command `k` is;
in cycle `k + 1` they show what command `k` made of it, neither earlier nor later. That a cycle which faults leaves
its record and nothing else is log 2's reading, the model's choice. -/
def Obligations.CommandVisibleFromNextCycle : Prop :=
  ∀ (s : State) (cs : List CycleInput) (k : Nat) (c : CycleInput), cs[k]? = some c →
    ∃ t u, (s.trace cs)[k]? = some t ∧ (s.trace cs)[k + 1]? = some u ∧
      t = s.runCycles (cs.take k) ∧
      (∀ d : CycleInput, (s.trace (cs.set k d))[k]? = some t) ∧
      (∀ v, t.r = some v → t.crcOut = .ok (crcOutOf v) ∧ t.crcHex = .ok (crcHexOf (crcOutOf v))) ∧
      (t.fault = none →
        (c.rst = true ∨ opField c.cmd = 0b01#2 →
          u.crcOut = .ok 0x00000000#32 ∧ u.crcHex = .ok 0x3030303030303030#64) ∧
        (∀ v, c.rst = false → opField c.cmd = 0b10#2 → t.r = some v →
          u.crcOut = .ok (crcOutOf ((v <<< 8) ^^^ romRead (v.extractLsb' 24 8 ^^^ c.cmd.extractLsb' 0 8))) ∧
          u.crcHex = .ok (crcHexOf (crcOutOf
            ((v <<< 8) ^^^ romRead (v.extractLsb' 24 8 ^^^ c.cmd.extractLsb' 0 8))))) ∧
        (∀ v, c.rst = false → opField c.cmd = 0b00#2 ∨ opField c.cmd = 0b11#2 → t.r = some v →
          u.crcOut = .ok (crcOutOf v) ∧ u.crcHex = .ok (crcHexOf (crcOutOf v))))

/-! ## Messages -/

/-- R86, R55: the reference function, and the engine's agreement with it after `CRC "m"`. -/
def Obligations.EngineComputesReference : Prop :=
  (∀ m : List Byte, crc32a m = bswap32 (~~~(m.foldl
    (fun r b => (r <<< 8) ^^^ romRead (r.extractLsb' 24 8 ^^^ b)) 0xFFFFFFFF#32)) ∧
    crc32aHex m = (List.range 8).map fun k => hexDigit ((crc32a m).extractLsb' (28 - 4 * k) 4)) ∧
  (∀ m : List Byte, (AsmLine.crc m).cycles = ⟨false, 0x100#10⟩ :: (AsmLine.updates m).cycles) ∧
  (AsmLine.crc []).cycles = [⟨false, 0x100#10⟩] ∧
  ∀ (s : State) (m : List Byte) (rest : List CycleInput), s.fault = none →
    ∃ t, Completes s (AsmLine.crc m).cycles rest t ∧ t.crcOut = .ok (crc32a m) ∧
      t.crcHex = .ok (packChars (crc32aHex m))

/-- R73: whole-message equivalence, with NOPs anywhere, from any state without a recorded fault. -/
def Obligations.WholeMessageEquivalence : Prop :=
  ∀ (s : State) (m : List Byte) (cs rest : List CycleInput), s.fault = none →
    events cs = .start :: m.map .byte →
    ∃ t, Completes s cs rest t ∧ t.r = some (fold m) ∧ t.crcOut = .ok (crc32a m) ∧ t.fault = none ∧
      t.cycle = s.cycle + cs.length ∧ t.inputs = rest

/-- R74: NOP cycles anywhere do not change the final `r`: two lists with the same events end in the same `r`, and
they differ in time by exactly the difference of their lengths. -/
def Obligations.NopInsensitivity : Prop :=
  ∀ (s t : State) (cs ds rest rest' : List CycleInput), s.fault = none → events cs = events ds →
    Completes s cs rest t → ∃ u, Completes s ds rest' u ∧ u.r = t.r ∧
      u.fault = t.fault ∧ u.cycle + cs.length = t.cycle + ds.length

/-- R75: continuation without INIT. -/
def Obligations.ContinuationWithoutInit : Prop :=
  (∀ (s : State) (m₁ m₂ : List Byte) (rest : List CycleInput), s.fault = none →
    ∃ t, Completes s ((AsmLine.crc m₁).cycles ++ (AsmLine.updates m₂).cycles) rest t ∧
      t.r = some (fold (m₁ ++ m₂)) ∧ t.crcOut = .ok (crc32a (m₁ ++ m₂))) ∧
  crc32a [0x31#8, 0x32#8] = 0x95A113C0#32

/-- R76: no length limit; the state depends only on the bytes since the last INIT or reset. -/
def Obligations.OnlyBytesSinceLastStartMatter : Prop :=
  (∀ (s t : State) (cs rest : List CycleInput) (pre : List Event) (m : List Byte), s.fault = none →
    events cs = pre ++ .start :: m.map .byte → Completes s cs rest t →
    t.r = some (fold m) ∧ t.crcOut = .ok (crc32a m)) ∧
  (∀ (s : State) (v : Word) (m : List Byte) (rest : List CycleInput), s.fault = none → s.r = some v →
    ∃ t, Completes s (AsmLine.updates m).cycles rest t ∧ t.r = some (foldBytes v m)) ∧
  crc32a [] = 0x00000000#32

/-- R87: the empty message. -/
def Obligations.EmptyMessage : Prop :=
  (∀ (s t : State) (cs rest : List CycleInput) (pre : List Event), s.fault = none →
    events cs = pre ++ [.start] → Completes s cs rest t →
    t.r = some 0xFFFFFFFF#32 ∧ t.crcOut = .ok 0x00000000#32 ∧ t.crcHex = .ok 0x3030303030303030#64) ∧
  crc32a [] = 0x00000000#32 ∧ ~~~0xFFFFFFFF#32 = 0x00000000#32 ∧ bswap32 0x00000000#32 = 0x00000000#32

/-- R77: one cycle and a whole run are functions of `r`, the fault record and the inputs: neither the position nor
what the list holds afterwards has any influence. -/
def Obligations.RunIsFunctionOfEngineAndInputs : Prop :=
  ∀ (s t : State) (cs : List CycleInput), s.r = t.r → s.fault = t.fault →
    (s.runCycles cs).r = (t.runCycles cs).r ∧
    ((s.runCycles cs).fault = none ↔ (t.runCycles cs).fault = none) ∧
    (s.cycle = t.cycle → (s.runCycles cs).fault = (t.runCycles cs).fault)

/-- 95_test_vectors.md section 1, the arbiter of R6 and of conflict C1: the known answers S1 to S6. -/
def Obligations.KnownAnswers : Prop :=
  crc32a [] = 0#32 ∧
  crc32a [0x31#8, 0x32#8, 0x33#8, 0x34#8, 0x35#8, 0x36#8, 0x37#8, 0x38#8, 0x39#8] = 404326908#32 ∧
  crc32a [0x48#8, 0x65#8, 0x6C#8, 0x6C#8, 0x6F#8, 0x20#8, 0x57#8, 0x6F#8, 0x72#8, 0x6C#8, 0x64#8, 0x21#8] = 2927368811#32 ∧
  crc32a [0x64#8, 0x34#8, 0x31#8, 0x64#8, 0x38#8, 0x63#8, 0x64#8, 0x39#8, 0x38#8, 0x66#8, 0x30#8, 0x30#8, 0x62#8,
    0x32#8, 0x30#8, 0x34#8, 0x65#8, 0x39#8, 0x38#8, 0x30#8, 0x30#8, 0x39#8, 0x39#8, 0x38#8, 0x65#8, 0x63#8,
    0x66#8, 0x38#8, 0x34#8, 0x32#8, 0x37#8, 0x65#8] = 3750220813#32 ∧
  crc32a [0x64#8, 0x61#8, 0x33#8, 0x39#8, 0x61#8, 0x33#8, 0x65#8, 0x65#8, 0x35#8, 0x65#8, 0x36#8, 0x62#8, 0x34#8,
    0x62#8, 0x30#8, 0x64#8, 0x33#8, 0x32#8, 0x35#8, 0x35#8, 0x62#8, 0x66#8, 0x65#8, 0x66#8, 0x39#8, 0x35#8,
    0x36#8, 0x30#8, 0x31#8, 0x38#8, 0x39#8, 0x30#8, 0x61#8, 0x66#8, 0x64#8, 0x38#8, 0x30#8, 0x37#8, 0x30#8,
    0x39#8] = 3035062612#32 ∧
  crc32a [0x49#8, 0x20#8, 0x68#8, 0x61#8, 0x76#8, 0x65#8, 0x20#8, 0x73#8, 0x70#8, 0x72#8, 0x65#8, 0x61#8, 0x64#8,
    0x20#8, 0x6D#8, 0x79#8, 0x20#8, 0x64#8, 0x72#8, 0x65#8, 0x61#8, 0x6D#8, 0x73#8, 0x20#8, 0x75#8, 0x6E#8,
    0x64#8, 0x65#8, 0x72#8, 0x20#8, 0x79#8, 0x6F#8, 0x75#8, 0x72#8, 0x20#8, 0x66#8, 0x65#8, 0x65#8, 0x74#8,
    0x3B#8, 0x20#8, 0x54#8, 0x72#8, 0x65#8, 0x61#8, 0x64#8, 0x20#8, 0x73#8, 0x6F#8, 0x66#8, 0x74#8, 0x6C#8,
    0x79#8, 0x20#8, 0x62#8, 0x65#8, 0x63#8, 0x61#8, 0x75#8, 0x73#8, 0x65#8, 0x20#8, 0x79#8, 0x6F#8, 0x75#8,
    0x20#8, 0x74#8, 0x72#8, 0x65#8, 0x61#8, 0x64#8, 0x20#8, 0x6F#8, 0x6E#8, 0x20#8, 0x6D#8, 0x79#8, 0x20#8,
    0x64#8, 0x72#8, 0x65#8, 0x61#8, 0x6D#8, 0x73#8, 0x2E#8] = 3879939681#32

/-- R33, R60: folding a byte through the table is eight steps of long division, the byte's bit 7 first. -/
def Obligations.TableFoldIsLongDivision : Prop :=
  ∀ (r : Word) (b : Byte), foldByte r b = foldByteBitwise r b

/-- From R64, R70 and R81: messages that differ in exactly one byte have different checksums. -/
def Obligations.OneChangedByteIsDetected : Prop :=
  ∀ (p q : List Byte) (x y : Byte), x ≠ y → crc32a (p ++ x :: q) ≠ crc32a (p ++ y :: q)

/-! ## Invariants, completion and faults -/

/-- Every step keeps a ready engine ready (R14, R21, R102) and its position in step with its list (R12, R16). -/
def Obligations.StepKeepsRunInv : Prop :=
  ∀ (n : Nat) (s t : State), s.RunInv n → step s = .next t → t.RunInv n

/-- State.reset meets the invariant with no cycles to run. That its fault record is empty and its list is empty at
position 0 is the model's reading and choice (log 1 to log 3). -/
def Obligations.ResetMeetsRunInv : Prop := State.reset.RunInv 0

/-- R88: from a ready engine every sequence of NOP, INIT and UPDATE commands completes with a defined result. -/
def Obligations.EveryCommandSequenceCompletes : Prop :=
  ∀ (s : State) (cs rest : List CycleInput), s.Ready → NoReserved cs →
    ∃ t x h, Completes s cs rest t ∧ t.Ready ∧ t.crcOut = .ok x ∧ t.crcHex = .ok h ∧
      t.cycle = s.cycle + cs.length ∧ t.inputs = rest

/-- R89: a step faults, with no fault recorded before, for exactly two causes, and the record holds the cycle index
and, for the first, the word. -/
def Obligations.StepFaultsForTwoCauses : Prop :=
  ∀ (s : State) (f : Fault), s.fault = none →
    (step s = .fault f ↔ ∃ c cs, s.inputs = c :: cs ∧ c.rst = false ∧
      ((opField c.cmd = 0b11#2 ∧ f = .reservedOp s.cycle c.cmd) ∨
       (opField c.cmd = 0b10#2 ∧ s.r = none ∧ f = .unwrittenRegister s.cycle)))

/-- R89, R12: what is recorded, that it is never cleared, that no further step happens, and that no observation
exists. That "no further step" is a step answering the recorded fault again, and where the record is kept, are log 2's
reading, the model's choice. -/
def Obligations.FaultRecordIsSticky : Prop :=
  (∀ (s : State) (w : Command), s.fault = none → opField w = 0b11#2 →
    (s.clock ⟨false, w⟩).fault = some (.reservedOp s.cycle w)) ∧
  (∀ (s : State) (w : Command), s.fault = none → opField w = 0b10#2 → s.r = none →
    (s.clock ⟨false, w⟩).fault = some (.unwrittenRegister s.cycle)) ∧
  (∀ s : State, s.fault = none → s.r = none → s.afterRead.fault = some (.unwrittenRegister s.cycle) ∧
    s.crcOut = .error (.unwrittenRegister s.cycle) ∧ s.crcHex = .error (.unwrittenRegister s.cycle)) ∧
  (∀ (s : State) (f : Fault) (cs : List CycleInput), s.fault = some f →
    step s = .fault f ∧ s.runCycles cs = s ∧ s.afterRead.fault = some f ∧ s.observeRun cs = .error f)

/-- R12: the observation of a run that records no fault is both outputs of its last state. -/
def Obligations.ObservationOfFaultFreeRun : Prop :=
  ∀ (s : State) (cs : List CycleInput) (v : Word), (s.runCycles cs).fault = none → (s.runCycles cs).r = some v →
    s.observeRun cs = .ok ⟨crcOutOf v, crcHexOf (crcOutOf v)⟩

/-- The run that keeps the fault record and the host's run agree wherever the latter completes (log 2). -/
def Obligations.RecordedRunAgreesWithHostRun : Prop :=
  ∀ (s t : State) (cs rest : List CycleInput), Completes s cs rest t →
    s.runCycles cs = t.withInputs s.inputs

/-- R28, R96: engines are independent: each one's next state is that of its own state and inputs. That they take
their cycles together, in one list, is the model's choice (log 16). -/
def Obligations.EnginesAreIndependent : Prop :=
  ∀ (ss : List State) (cs : List CycleInput) (j : Nat) (s : State) (c : CycleInput), ss[j]? = some s →
    cs[j]? = some c → (clockEngines ss cs)[j]? = some (s.clock c) ∧ (clockEngines ss cs).length = ss.length

/-! ## Assembler -/

/-- R52, R56 and the expansions of R53 and R54. -/
def Obligations.PseudoInstructionExpansions : Prop :=
  AsmLine.reset.cycles = [⟨true, 0x000#10⟩] ∧
  (∀ n : Nat, (AsmLine.idle n).cycles = (List.replicate n AsmLine.nop).flatMap AsmLine.cycles) ∧
  (AsmLine.idle 0).cycles = [] ∧
  (∀ m : List Byte, (AsmLine.updates m).cycles = (m.map AsmLine.update).flatMap AsmLine.cycles) ∧
  (∀ b : Byte, (AsmLine.update b).cycles = [⟨false, 0x200#10 ||| b.setWidth 10⟩]) ∧
  (AsmLine.updates [0x31#8, 0x32#8]).cycles = [⟨false, 0x231#10⟩, ⟨false, 0x232#10⟩]

/-- R49, R50, R52: whatever text is assembled, every entry is a RESET or a command an assembler may emit. -/
def Obligations.AssemblerEmitsOnlyWellFormed : Prop :=
  ∀ (text : List Char) (cs : List CycleInput), assemble text = .ok cs →
    ∀ c ∈ cs, c = ⟨true, 0x000#10⟩ ∨ c.rst = false ∧ (decode c.cmd).wellFormed = true

/-- R57: a listing's entry holds its cycle; reading it back is the model's (log 13). -/
def Obligations.ListingEntryRoundTrip : Prop :=
  (∀ c : CycleInput, readEntry (listingEntry c) = some c) ∧
  listingEntry ⟨false, 0x231#10⟩ = ['0', ' ', '0', 'x', '2', '3', '1']
end

