-- ==== Sys2Proof/Laws/Decode.lean ====
section
/-! SUPPORT. What each value of `op` decodes to (R48), so that no later proof unfolds the decoder. -/

namespace Sys2Proof

theorem opField_cases (w : Command) :
    opField w = 0b00#2 ∨ opField w = 0b01#2 ∨ opField w = 0b10#2 ∨ opField w = 0b11#2 := by
  generalize opField w = op
  revert op
  decide

theorem decode_of_op00 {w : Command} (h : opField w = 0b00#2) : decode w = .nop (dataField w) := by
  simp [decode, h]

theorem decode_of_op01 {w : Command} (h : opField w = 0b01#2) : decode w = .init (dataField w) := by
  simp [decode, h]

theorem decode_of_op10 {w : Command} (h : opField w = 0b10#2) : decode w = .update (dataField w) := by
  simp [decode, h]

theorem decode_of_op11 {w : Command} (h : opField w = 0b11#2) : decode w = .reserved (dataField w) := by
  simp [decode, h]

theorem commandOfNat_of_lt {w : Nat} (h : w < 1024) : commandOfNat w = .ok (BitVec.ofNat 10 w) := by
  simp [commandOfNat, h]

theorem commandOfNat_of_ge {w : Nat} (h : 1024 ≤ w) : commandOfNat w = .error (.wordTooWide w) := by
  simp [commandOfNat, Nat.not_lt.mpr h]

end Sys2Proof
end

