-- ==== Sys2Proof/Laws/State.lean ====
section
/-! SUPPORT. One lemma per field per update of State. -/

namespace Sys2Proof.Machine

@[simp] theorem State.writeR_r (s : State) (v : Word) : (s.writeR v).r = some v := rfl
@[simp] theorem State.writeR_fault (s : State) (v : Word) : (s.writeR v).fault = s.fault := rfl
@[simp] theorem State.writeR_cycle (s : State) (v : Word) : (s.writeR v).cycle = s.cycle := rfl
@[simp] theorem State.writeR_inputs (s : State) (v : Word) : (s.writeR v).inputs = s.inputs := rfl

@[simp] theorem State.advance_r (s : State) : s.advance.r = s.r := rfl
@[simp] theorem State.advance_fault (s : State) : s.advance.fault = s.fault := rfl
@[simp] theorem State.advance_cycle (s : State) : s.advance.cycle = s.cycle + 1 := rfl
@[simp] theorem State.advance_inputs (s : State) : s.advance.inputs = s.inputs.tail := rfl

@[simp] theorem State.withInputs_r (s : State) (cs : List CycleInput) : (s.withInputs cs).r = s.r := rfl
@[simp] theorem State.withInputs_fault (s : State) (cs : List CycleInput) :
    (s.withInputs cs).fault = s.fault := rfl
@[simp] theorem State.withInputs_cycle (s : State) (cs : List CycleInput) :
    (s.withInputs cs).cycle = s.cycle := rfl
@[simp] theorem State.withInputs_inputs (s : State) (cs : List CycleInput) :
    (s.withInputs cs).inputs = cs := rfl
@[simp] theorem State.withInputs_withInputs (s : State) (cs ds : List CycleInput) :
    (s.withInputs cs).withInputs ds = s.withInputs ds := rfl
@[simp] theorem State.withInputs_self (s : State) : s.withInputs s.inputs = s := rfl

@[simp] theorem State.present_r (s : State) (c : CycleInput) : (s.present c).r = s.r := rfl
@[simp] theorem State.present_fault (s : State) (c : CycleInput) : (s.present c).fault = s.fault := rfl
@[simp] theorem State.present_cycle (s : State) (c : CycleInput) : (s.present c).cycle = s.cycle := rfl
@[simp] theorem State.present_inputs (s : State) (c : CycleInput) :
    (s.present c).inputs = c :: s.inputs.tail := rfl

@[simp] theorem State.record_r (s : State) (f : Fault) : (s.record f).r = s.r := rfl
@[simp] theorem State.record_fault (s : State) (f : Fault) :
    (s.record f).fault = some (s.fault.getD f) := rfl
@[simp] theorem State.record_cycle (s : State) (f : Fault) : (s.record f).cycle = s.cycle := rfl
@[simp] theorem State.record_inputs (s : State) (f : Fault) : (s.record f).inputs = s.inputs := rfl

@[simp] theorem applyReset_r (s : State) : (applyReset s).r = some Config.initValue := rfl
@[simp] theorem applyReset_fault (s : State) : (applyReset s).fault = s.fault := rfl
@[simp] theorem applyReset_cycle (s : State) : (applyReset s).cycle = s.cycle + 1 := rfl
@[simp] theorem applyReset_inputs (s : State) : (applyReset s).inputs = s.inputs.tail := rfl

end Sys2Proof.Machine
end

