-- ==== Sys2Proof/Laws/Ops.lean ====
section
/-! SUPPORT. What each shared operation answers, said once. -/

namespace Sys2Proof.Machine

@[simp] theorem State.readR_of_some {s : State} {v : Word} (h : s.r = some v) : s.readR = .ok v := by
  simp [State.readR, h]

@[simp] theorem State.readR_of_none {s : State} (h : s.r = none) :
    s.readR = .error (.unwrittenRegister s.cycle) := by
  simp [State.readR, h]

/-- A register read gives the value held, or faults because none is. -/
theorem State.readR_cases (s : State) :
    (∃ v, s.r = some v ∧ s.readR = .ok v) ∨
      (s.r = none ∧ s.readR = .error (.unwrittenRegister s.cycle)) := by
  cases h : s.r with
  | some v => exact .inl ⟨v, rfl, State.readR_of_some h⟩
  | none => exact .inr ⟨rfl, State.readR_of_none h⟩

theorem State.sampled_of_cons {s : State} {c : CycleInput} {cs : List CycleInput}
    (h : s.inputs = c :: cs) : s.sampled = some c := by
  simp [State.sampled, h]

theorem State.sampled_of_nil {s : State} (h : s.inputs = []) : s.sampled = none := by
  simp [State.sampled, h]

/-- Recording where nothing is recorded keeps the new fault. -/
theorem State.record_of_none {s : State} (f : Fault) (h : s.fault = none) :
    (s.record f).fault = some f := by
  simp [h]

/-- The first fault stays (R89). -/
theorem State.record_of_some {s : State} {f : Fault} (g : Fault) (h : s.fault = some f) :
    s.record g = s := by
  cases s
  simp_all [State.record]

theorem State.crcOut_of_some {s : State} {v : Word} (h : s.r = some v) :
    s.crcOut = .ok (crcOutOf v) := by
  simp [State.crcOut, h, Except.map]

theorem State.crcOut_of_none {s : State} (h : s.r = none) :
    s.crcOut = .error (.unwrittenRegister s.cycle) := by
  simp [State.crcOut, h, Except.map]

theorem State.crcHex_of_some {s : State} {v : Word} (h : s.r = some v) :
    s.crcHex = .ok (crcHexOf (crcOutOf v)) := by
  simp [State.crcHex, h, Except.map]

theorem State.crcHex_of_none {s : State} (h : s.r = none) :
    s.crcHex = .error (.unwrittenRegister s.cycle) := by
  simp [State.crcHex, h, Except.map]

theorem State.romAddr_of_some {s : State} {v : Word} (c : CycleInput) (h : s.r = some v) :
    s.romAddr c = tableIndex v (dataField c.cmd) := by
  simp [State.romAddr, h]

theorem State.observe_of_fault {s : State} {f : Fault} (h : s.fault = some f) :
    s.observe = .error f := by
  simp [State.observe, h]

theorem State.afterRead_of_some {s : State} {v : Word} (h : s.r = some v) : s.afterRead = s := by
  simp [State.afterRead, h]

theorem State.afterRead_of_none {s : State} (h : s.r = none) :
    s.afterRead = s.record (.unwrittenRegister s.cycle) := by
  simp [State.afterRead, h]

end Sys2Proof.Machine
end

