-- ==== Sys2Proof/Laws/PerInstr.lean ====
section
/-! SUPPORT. Families of statements about every instruction as syntax, one lemma per constructor. -/

namespace Sys2Proof.Laws.EncodesInRow

/-- The word of an instruction belongs to the opcode row of its mnemonic and to no other row (R48). -/
def Statement (i : Instr) : Prop :=
  ∀ row ∈ opcodeRows, row.matches (encode i) = true ↔ row.mnemonic = i.mnemonic

theorem nop (d : Byte) : Statement (.nop d) := by
  revert d; unfold Statement; decide

theorem init (d : Byte) : Statement (.init d) := by
  revert d; unfold Statement; decide

theorem update (b : Byte) : Statement (.update b) := by
  revert b; unfold Statement; decide

theorem reserved (d : Byte) : Statement (.reserved d) := by
  revert d; unfold Statement; decide

end Sys2Proof.Laws.EncodesInRow
end

