-- ==== Sys2Proof/Laws/Rom.lean ====
section
/-! SUPPORT. R60's loop and the fold of a byte, in the form proofs use. -/

namespace Sys2Proof.Machine

/-- One iteration is a shift, and an XOR with the polynomial when bit 31 was set. -/
theorem genStep_eq (poly v : Word) :
    genStep poly v = (v <<< 1) ^^^ (if v.getLsbD 31 then poly else 0#32) := by
  unfold genStep
  split <;> simp

/-- One iteration is linear over XOR. -/
theorem genStep_xor (poly a b : Word) :
    genStep poly (a ^^^ b) = genStep poly a ^^^ genStep poly b := by
  simp only [genStep_eq, BitVec.getLsbD_xor, BitVec.shiftLeft_xor_distrib]
  cases a.getLsbD 31 <;> cases b.getLsbD 31 <;> ext i <;> simp <;> grind

/-- So are any number of them. -/
theorem genLoop_xor (poly : Word) (n : Nat) (a b : Word) :
    genLoop poly n (a ^^^ b) = genLoop poly n a ^^^ genLoop poly n b := by
  induction n generalizing a b with
  | zero => rfl
  | succ n ih => simp only [genLoop, genStep_xor, ih]

end Sys2Proof.Machine
end

