-- ==== Sys2Proof/Laws/Step.lean ====
section
/-! SUPPORT. What a command and a step can do, said once: every later proof cites these and unfolds neither. -/

namespace Sys2Proof.Machine

theorem execUpdate_of_some {s : State} {v : Word} (b : Byte) (h : s.r = some v) :
    execUpdate b s = .next (s.writeR (foldByte v b)).advance := by
  simp [execUpdate, h]

theorem execUpdate_of_none {s : State} (b : Byte) (h : s.r = none) :
    execUpdate b s = .fault (.unwrittenRegister s.cycle) := by
  simp [execUpdate, h, raise]

/-- Everything a command can answer. -/
theorem exec_cases (i : Instr) (s : State) :
    (∃ d, i = .nop d ∧ exec i s = .next s.advance) ∨
    (∃ d, i = .init d ∧ exec i s = .next (s.writeR Config.initValue).advance) ∨
    (∃ b v, i = .update b ∧ s.r = some v ∧ exec i s = .next (s.writeR (foldByte v b)).advance) ∨
    (∃ b, i = .update b ∧ s.r = none ∧ exec i s = .fault (.unwrittenRegister s.cycle)) ∨
    (∃ d, i = .reserved d ∧ exec i s = .fault (.reservedOp s.cycle (encode i))) := by
  cases i with
  | nop d => exact .inl ⟨d, rfl, rfl⟩
  | init d => exact .inr (.inl ⟨d, rfl, rfl⟩)
  | update b =>
    cases h : s.r with
    | some v => exact .inr (.inr (.inl ⟨b, v, rfl, rfl, execUpdate_of_some b h⟩))
    | none => exact .inr (.inr (.inr (.inl ⟨b, rfl, rfl, execUpdate_of_none b h⟩)))
  | reserved d => exact .inr (.inr (.inr (.inr ⟨d, rfl, rfl⟩)))

theorem step_of_fault {s : State} {f : Fault} (h : s.fault = some f) : step s = .fault f := by
  simp [step, h, raise]

theorem step_of_nil {s : State} (hf : s.fault = none) (hi : s.inputs = []) :
    step s = .refused .endOfRun := by
  simp [step, hf, State.sampled_of_nil hi]

theorem step_of_cons {s : State} {c : CycleInput} {cs : List CycleInput} (hf : s.fault = none)
    (hi : s.inputs = c :: cs) : step s = cycleStep s c := by
  simp [step, hf, State.sampled_of_cons hi]

theorem cycleStep_of_rst (s : State) {c : CycleInput} (h : c.rst = true) :
    cycleStep s c = .next (applyReset s) := by
  simp [cycleStep, h]

theorem cycleStep_of_command (s : State) {c : CycleInput} (h : c.rst = false) :
    cycleStep s c = exec (decode c.cmd) s := by
  simp [cycleStep, h]

/-- A step that answers a next state ran the head of the list, with no fault recorded. -/
theorem step_next {s t : State} (h : step s = .next t) :
    s.fault = none ∧ ∃ c cs, s.inputs = c :: cs ∧ cycleStep s c = .next t := by
  cases hf : s.fault with
  | some f => simp [step_of_fault hf] at h
  | none =>
    cases hi : s.inputs with
    | nil => simp [step_of_nil hf hi] at h
    | cons c cs => exact ⟨rfl, c, cs, rfl, by rwa [step_of_cons hf hi] at h⟩

/-- A command that answers a next state used up one entry of the list and left the fault record alone. -/
theorem exec_next_fields {i : Instr} {s t : State} (h : exec i s = .next t) :
    t.fault = s.fault ∧ t.cycle = s.cycle + 1 ∧ t.inputs = s.inputs.tail := by
  obtain ⟨_, _, e⟩ | ⟨_, _, e⟩ | ⟨_, _, _, _, e⟩ | ⟨_, _, _, e⟩ | ⟨_, _, e⟩ := exec_cases i s <;>
    rw [e] at h <;> cases h <;> simp

theorem cycleStep_next_fields {s t : State} {c : CycleInput} (h : cycleStep s c = .next t) :
    t.fault = s.fault ∧ t.cycle = s.cycle + 1 ∧ t.inputs = s.inputs.tail := by
  cases hr : c.rst with
  | true =>
    rw [cycleStep_of_rst s hr] at h
    cases h
    simp
  | false => exact exec_next_fields (cycleStep_of_command s hr ▸ h)

end Sys2Proof.Machine
end

