-- ==== Sys2Proof/Laws/Run.lean ====
section
/-! SUPPORT. Runs taken one cycle at a time. -/

namespace Sys2Proof.Machine

/-- Everything a cycle can do, by the message event it stands for. -/
theorem cycleStep_cases (s : State) (c : CycleInput) :
    (eventOf c = none ∧ cycleStep s c = .next s.advance) ∨
    (eventOf c = some .start ∧ cycleStep s c = .next (s.writeR Config.initValue).advance) ∨
    (∃ b v, eventOf c = some (.byte b) ∧ s.r = some v ∧
      cycleStep s c = .next (s.writeR (foldByte v b)).advance) ∨
    (∃ b, eventOf c = some (.byte b) ∧ s.r = none ∧
      cycleStep s c = .fault (.unwrittenRegister s.cycle)) ∨
    (eventOf c = some (.invalid c.cmd) ∧
      cycleStep s c = .fault (.reservedOp s.cycle (encode (decode c.cmd)))) := by
  cases hr : c.rst with
  | true => exact .inr (.inl ⟨by simp [eventOf, hr], cycleStep_of_rst s hr⟩)
  | false =>
    rw [cycleStep_of_command s hr]
    obtain ⟨d, h, e⟩ | ⟨d, h, e⟩ | ⟨b, v, h, hv, e⟩ | ⟨b, h, hv, e⟩ | ⟨d, h, e⟩ := exec_cases (decode c.cmd) s
    · exact .inl ⟨by simp [eventOf, hr, h], e⟩
    · exact .inr (.inl ⟨by simp [eventOf, hr, h], e⟩)
    · exact .inr (.inr (.inl ⟨b, v, by simp [eventOf, hr, h], hv, e⟩))
    · exact .inr (.inr (.inr (.inl ⟨b, by simp [eventOf, hr, h], hv, e⟩)))
    · exact .inr (.inr (.inr (.inr ⟨by simp [eventOf, hr, h], e⟩)))

theorem completes_nil (s : State) (rest : List CycleInput) :
    Completes s [] rest (s.withInputs rest) := rfl

/-- A list completes when its first cycle does and its rest does from there. -/
theorem completes_cons {s u : State} {c : CycleInput} {cs rest : List CycleInput} {t : State}
    (hf : s.fault = none) (hc : cycleStep (s.withInputs (c :: (cs ++ rest))) c = .next u)
    (h : Completes u cs rest t) : Completes s (c :: cs) rest t := by
  have hs : step (s.withInputs (c :: (cs ++ rest))) = .next u := by
    rw [step_of_cons (by simpa using hf) rfl, hc]
  have hu : u.withInputs (cs ++ rest) = u := by
    obtain ⟨-, -, h3⟩ := cycleStep_next_fields hc
    cases u
    simp_all [State.withInputs]
  simp only [Completes, List.length_cons, List.cons_append, Host.Core.run] at h ⊢
  rw [hu] at h
  rw [show Sys2Proof.core.step = step from rfl, hs]
  exact h

/-- A completed list was completed cycle by cycle. -/
theorem completes_cons_inv {s t : State} {c : CycleInput} {cs rest : List CycleInput}
    (h : Completes s (c :: cs) rest t) :
    s.fault = none ∧ ∃ u, cycleStep (s.withInputs (c :: (cs ++ rest))) c = .next u ∧
      Completes u cs rest t := by
  simp only [Completes, List.length_cons, List.cons_append, Host.Core.run] at h
  rw [show Sys2Proof.core.step = step from rfl] at h
  split at h
  · rename_i u hu
    obtain ⟨hf, d, ds, hi, hc⟩ := step_next hu
    cases hi
    refine ⟨by simpa using hf, u, hc, ?_⟩
    have hu' : u.withInputs (cs ++ rest) = u := by
      obtain ⟨-, -, h3⟩ := cycleStep_next_fields hc
      cases u
      simp_all [State.withInputs]
    simpa only [Completes, hu'] using h
  · cases h
  · cases h

@[simp] theorem State.runCycles_nil (s : State) : s.runCycles [] = s := rfl

@[simp] theorem State.runCycles_cons (s : State) (c : CycleInput) (cs : List CycleInput) :
    s.runCycles (c :: cs) = (s.clock c).runCycles cs := rfl

theorem State.runCycles_append (s : State) (cs ds : List CycleInput) :
    s.runCycles (cs ++ ds) = (s.runCycles cs).runCycles ds := by
  induction cs generalizing s with
  | nil => rfl
  | cons c cs ih => exact ih (s.clock c)

/-- A cycle with no fault recorded settles what its inputs do. -/
theorem State.clock_of_no_fault {s : State} (c : CycleInput) (h : s.fault = none) :
    s.clock c = s.settle (cycleStep (s.withInputs (c :: s.inputs)) c) := by
  rw [State.clock, step_of_cons (by simpa using h) rfl]

/-- A cycle changes nothing once a fault is recorded (R89). -/
theorem State.clock_of_fault {s : State} {f : Fault} (c : CycleInput) (h : s.fault = some f) :
    s.clock c = s := by
  rw [State.clock, step_of_fault (f := f) (by simpa using h)]
  exact State.record_of_some f h

end Sys2Proof.Machine
end

