-- ==== Sys2Proof/Tests/Slice0.lean ====
section
/-! SUPPORT. Tests with expected results from 95_test_vectors.md and the rules' own examples, and for every statement
with hypotheses a witness that meets them. -/

namespace Sys2Proof.Tests

open Sys2Proof.Machine

/-! ## Well-formedness: an ill-formed term for each check (R49, R50) -/

theorem test_wf_nop_nonzero_data_refused : (Instr.nop 0xFF#8).wellFormed = false := by decide
theorem test_wf_init_nonzero_data_refused : (Instr.init 0x01#8).wellFormed = false := by decide
theorem test_wf_reserved_refused : (Instr.reserved 0x00#8).wellFormed = false := by decide
theorem test_wf_accepts_emitted_commands :
    (Instr.nop 0x00#8).wellFormed ∧ (Instr.init 0x00#8).wellFormed ∧ (Instr.update 0xFF#8).wellFormed := by decide

/-! ## Decoding: words written out bit by bit, `oodddddddd` (R45, R48) -/

theorem test_decode_nop : decode 0b0011111111#10 = .nop 0xFF#8 := by decide
theorem test_decode_init : decode 0b0110100101#10 = .init 0xA5#8 := by decide
theorem test_decode_update : decode 0b1000110001#10 = .update 0x31#8 := by decide
theorem test_decode_reserved : decode 0b1110100101#10 = .reserved 0xA5#8 := by decide
theorem test_encode_update : encode (.update 0x32#8) = 0b1000110010#10 := by decide
theorem test_table_word_update : decodeTableWord 16 0x231 = some (.update 0x31#8) := by decide
theorem test_table_word_too_wide : decodeNat 0x400 = .error (.wordTooWide 0x400) := by decide

/-! ## One step on a small state -/

/-- The next state of an outcome. -/
def nextOf : Host.Outcome State Fault Refusal → Option State
  | .next t => some t
  | _ => none

/-- The fault of an outcome. -/
def faultOf : Host.Outcome State Fault Refusal → Option Fault
  | .fault f => some f
  | _ => none

/-- An engine with no fault, at cycle 3, with one list entry. -/
def engine (r : Option Word) (rst : Bool) (cmd : Command) : State := ⟨r, none, 3, [⟨rst, cmd⟩]⟩

/-- 95 section 2.3. -/
theorem test_nop_holds_register :
    nextOf (step (engine (some 0x0376E6E7#32) false 0x0FF#10)) = some ⟨some 0x0376E6E7#32, none, 4, []⟩ := by decide
theorem test_nop_at_power_up : nextOf (step (engine none false 0x000#10)) = some ⟨none, none, 4, []⟩ := by decide

/-- 95 section 2.2. -/
theorem test_init_sets_register :
    nextOf (step (engine (some 0x00000000#32) false 0x1A5#10)) = some ⟨some 0xFFFFFFFF#32, none, 4, []⟩ := by decide
theorem test_init_at_power_up :
    nextOf (step (engine none false 0x100#10)) = some ⟨some 0xFFFFFFFF#32, none, 4, []⟩ := by decide

/-- 95 section 2.8, the first byte that folds a register with four different bytes. -/
theorem test_update_folds :
    nextOf (step (engine (some 0x9EFBCF93#32) false 0x232#10)) = some ⟨some 0x3FEC5E6A#32, none, 4, []⟩ := by decide
/-- 95 section 2.4, last row. -/
theorem test_update_unwritten_faults :
    faultOf (step (engine none false 0x231#10)) = some (.unwrittenRegister 3) := by decide

/-- 95 section 2.5. -/
theorem test_reserved_faults :
    faultOf (step (engine (some 0x9EFBCF93#32) false 0x3A5#10)) = some (.reservedOp 3 0x3A5#10) := by decide
theorem test_reserved_before_unwritten :
    faultOf (step (engine none false 0x300#10)) = some (.reservedOp 3 0x300#10) := by decide

/-- 95 section 2.6. -/
theorem test_reset_ignores_reserved_word :
    nextOf (step (engine none true 0x3FF#10)) = some ⟨some 0xFFFFFFFF#32, none, 4, []⟩ := by decide
theorem test_reset_keeps_fault_record :
    ((State.powerUp.record (.unwrittenRegister 0)).clock ⟨true, 0x000#10⟩).r = none := by decide

/-- 95 program P6b, cycle 2: `r` as it was, the fault recorded. -/
theorem test_fault_recorded_register_kept :
    (⟨some 0x9EFBCF93#32, none, 2, []⟩ : State).clock ⟨false, 0x3A5#10⟩ =
      ⟨some 0x9EFBCF93#32, some (.reservedOp 2 0x3A5#10), 2, []⟩ := by decide

/-! ## The table, the wires and the outputs -/

/-- 95 section 2.1. -/
theorem test_rom_reads : romRead 0x31#8 = 0xD0F37027#32 ∧ romRead 0xCE#8 = 0x61043093#32 := by decide
/-- 95 section 2.1, the trace of `b` = 0xCE after its first iteration. -/
theorem test_gen_first_iteration : genStep Config.poly 0xCE000000#32 = 0x98C11DB7#32 := by decide
/-- 95 section 2.8, the index of the second byte; `rst` and `op` have no part in it (R25). -/
theorem test_rom_addr : (engine (some 0x9EFBCF93#32) false 0x000#10).romAddr ⟨true, 0x332#10⟩ = 0xAC#8 := by decide
/-- 95 section 2.7, the row that tests the byte order alone. -/
theorem test_crc_out_byte_order : crcOutOf 0xEDCBA987#32 = 0x78563412#32 := by decide
/-- 95 section 2.7, two leading zeros. -/
theorem test_crc_hex_leading_zeros : crcHexOf 0x00F0560E#32 = 0x3030663035363065#64 := by decide
theorem test_crc_out_unwritten : State.powerUp.crcOut = .error (.unwrittenRegister 0) := by decide
/-- 95 section 2.4, multi-byte messages. -/
theorem test_reference_two_bytes : crc32a [0x31#8, 0x32#8] = 0x95A113C0#32 := by decide

/-! ## Assembler -/

/-- R53: case, comment and the three forms of a byte. -/
theorem test_assemble_update_forms :
    readLine ['u', 'p', 'D', 'A', 'T', 'E', ' ', '0', 'x', '3', '1', ' ', ';', 'c'] = .ok (some (.update 0x31#8)) ∧
    readLine ['U', 'P', 'D', 'A', 'T', 'E', ' ', '4', '9'] = .ok (some (.update 0x31#8)) ∧
    readLine ['U', 'P', 'D', 'A', 'T', 'E', ' ', '\'', '1', '\''] = .ok (some (.update 0x31#8)) := by decide
/-- R53: a value outside 0 to 255. -/
theorem test_assemble_byte_out_of_range :
    readLine ['U', 'P', 'D', 'A', 'T', 'E', ' ', '2', '5', '6'] = .error (.byteOutOfRange 256) := by decide
/-- R54: the escapes. -/
theorem test_assemble_escapes :
    readLine ['U', 'P', 'D', 'A', 'T', 'E', 'S', ' ', '"', '\\', 'x', '4', '1', '\\', '\\', '\\', '"', '"'] =
      .ok (some (.updates [0x41#8, 0x5C#8, 0x22#8])) := by decide
/-- 95 program P1 and R55. -/
theorem test_assemble_program :
    assemble ['R', 'E', 'S', 'E', 'T', '\n', 'C', 'R', 'C', ' ', '"', 'a', '"'] =
      .ok [⟨true, 0x000#10⟩, ⟨false, 0x100#10⟩, ⟨false, 0x261#10⟩] := by decide
/-- R57's example. -/
theorem test_listing_entry : listingEntry ⟨false, 0x231#10⟩ = ['0', ' ', '0', 'x', '2', '3', '1'] := by decide

/-! ## Witnesses: states and operands that meet the hypotheses of the statements -/

/-- An engine at a fault. -/
def faulted : State := ⟨some 0x9EFBCF93#32, some (.reservedOp 2 0x3A5#10), 2, []⟩

theorem witness_OpcodeMapByRange :
    (0x0FF#10).toNat ≤ 0x0FF ∧ 0x100 ≤ (0x100#10).toNat ∧ (0x1FF#10).toNat ≤ 0x1FF ∧ 0x200 ≤ (0x200#10).toNat ∧
    (0x2FF#10).toNat ≤ 0x2FF ∧ 0x300 ≤ (0x300#10).toNat ∧ 0x300 ≤ (0x3FF#10).toNat := by decide

theorem witness_OneWordOneCommandOneCycle :
    ∃ (s t : State) (c : CycleInput), s.fault = none ∧ s.inputs = c :: [] ∧ c.rst = false ∧
      exec (decode c.cmd) s = .next t :=
  ⟨engine none false 0x0FF#10, ⟨none, none, 4, []⟩, ⟨false, 0x0FF#10⟩, rfl, rfl, rfl, rfl⟩

theorem witness_NopAndInitIgnoreData :
    opField 0x0FF#10 = 0b00#2 ∧ opField 0x1FF#10 = 0b01#2 ∧ State.reset.r = some 0xFFFFFFFF#32 := by decide

theorem witness_StepRunsDecodedCommand :
    (engine none false 0x3FF#10).fault = none ∧ (engine none false 0x3FF#10).inputs = [⟨false, 0x3FF#10⟩] := by decide

theorem witness_PresentedWordRuns : State.reset.fault = none ∧ 1023 < 1024 := by decide

theorem witness_ResetCycleSetsRegister :
    (engine none true 0x3FF#10).fault = none ∧ (engine none true 0x3FF#10).inputs = [⟨true, 0x3FF#10⟩] ∧
    (State.powerUp.withInputs [⟨true, 0x3FF#10⟩, ⟨false, encode (.update 0x00#8)⟩]).fault = none ∧
    faulted.fault = some (.reservedOp 2 0x3A5#10) := by decide

theorem witness_ResetOfAnyLength :
    State.powerUp.fault = none ∧ (∀ d ∈ [⟨true, 0x231#10⟩, ⟨true, 0x3FF#10⟩], CycleInput.rst d = true) ∧
    (engine none false 0x100#10).inputs = [⟨false, 0x100#10⟩] := by decide

theorem witness_ValuesAfterReset :
    (engine (some 0#32) true 0x231#10).fault = none ∧
    (engine (some 0#32) true 0x231#10).inputs = [⟨true, 0x231#10⟩] ∧
    faulted.fault = some (.reservedOp 2 0x3A5#10) := by decide

theorem witness_PowerUpNeedsResetOrInit :
    (engine none true 0x300#10).fault = none ∧ (engine none true 0x300#10).inputs = [⟨true, 0x300#10⟩] ∧
    (engine none false 0x1FF#10).inputs = [⟨false, 0x1FF#10⟩] ∧ opField 0x1FF#10 = 0b01#2 := by decide

theorem witness_EventPriority :
    (engine none true 0x3FF#10).inputs = [⟨true, 0x3FF#10⟩] ∧ (engine none false 0x300#10).fault = none ∧
    opField 0x300#10 = 0b11#2 ∧ opField 0x2FF#10 = 0b10#2 ∧ (engine none false 0x2FF#10).r = none := by decide

theorem witness_RunEndsWithTheList : ∃ ρ, step State.reset = .refused ρ := ⟨.endOfRun, rfl⟩

theorem witness_NopChangesNothing :
    opField 0x0FF#10 = 0b00#2 ∧ State.reset.fault = none ∧
    (∀ c ∈ [⟨false, 0x000#10⟩, ⟨false, 0x0FF#10⟩], CycleInput.rst c = false ∧ opField c.cmd = 0b00#2) ∧
    State.reset.r = some 0xFFFFFFFF#32 ∧ (engine (some 0x0376E6E7#32) false 0#10).r = some 0x0376E6E7#32 := by decide

theorem witness_InitStartsMessage :
    opField 0x1FF#10 = 0b01#2 ∧ (engine (some 0x9EFBCF93#32) false 0x100#10).r = some 0x9EFBCF93#32 := by decide

theorem witness_UpdateFoldsByte :
    opField 0x2FF#10 = 0b10#2 ∧ State.reset.r = some 0xFFFFFFFF#32 ∧ State.powerUp.r = none ∧
    (0x12345678#32).extractLsb' 24 8 = 0x12#8 := by decide

theorem witness_ReservedWordFaults :
    opField 0x300#10 = 0b11#2 ∧ opField 0x3FF#10 = 0b11#2 ∧ State.reset.fault = none ∧
    (engine none true 0x3FF#10).inputs = [⟨true, 0x3FF#10⟩] := by decide

theorem witness_UpdateOfUnwrittenRegisterFaults :
    State.powerUp.r = none ∧
    (∃ t, step (engine none false 0x000#10) = .next t ∧ t.r = none) ∧
    (∃ t, step (engine none false 0x100#10) = .next t ∧ t.r ≠ none) :=
  ⟨rfl, ⟨_, rfl, rfl⟩, ⟨_, rfl, by decide⟩⟩

theorem witness_CommandFrame :
    (∃ t, exec (.nop 0xFF#8) State.powerUp = .next t) ∧ (∃ t, exec (.init 0xFF#8) State.powerUp = .next t) ∧
    (∃ t, exec (.update 0xFF#8) State.reset = .next t) :=
  ⟨⟨_, rfl⟩, ⟨_, rfl⟩, ⟨_, rfl⟩⟩

theorem witness_OnlyResetInitUpdateWriteRegister :
    (∃ t, step (engine none true 0x000#10) = .next t ∧ t.r ≠ none) ∧
    (∃ t, step (engine none false 0x100#10) = .next t ∧ t.r ≠ none) ∧
    (∃ t, step (engine (some 0x9EFBCF93#32) false 0x232#10) = .next t ∧ t.r ≠ some 0x9EFBCF93#32) :=
  ⟨⟨_, rfl, by decide⟩, ⟨_, rfl, by decide⟩, ⟨_, rfl, by decide⟩⟩

theorem witness_TableIsLinearWithDistinctEntries : romRead 0xFF#8 = romRead 0xFF#8 := rfl

theorem witness_TableIndexWires :
    (engine (some 0x9EFBCF93#32) false 0x232#10).inputs = [⟨false, 0x232#10⟩] ∧ opField 0x232#10 = 0b10#2 ∧
    (engine (some 0x9EFBCF93#32) false 0x232#10).r = some 0x9EFBCF93#32 ∧
    (engine none false 0x2FF#10).r = none := by decide

theorem witness_NumericResult : State.reset.r = some 0xFFFFFFFF#32 ∧ State.powerUp.r = none := by decide

theorem witness_RegisterRecoverableFromResult : crcOutOf 0xFFFFFFFF#32 = crcOutOf 0xFFFFFFFF#32 := rfl

theorem witness_HexDigitCodes : (9#4).toNat ≤ 9 ∧ 10 ≤ (10#4).toNat ∧ 10 ≤ (15#4).toNat := by decide

theorem witness_HexPortLayout :
    State.reset.r = some 0xFFFFFFFF#32 ∧ State.reset.crcOut = .ok 0x00000000#32 ∧ 0 < 8 ∧ 7 < 8 := by decide

theorem witness_HexFormAgreesWithNumeric :
    State.reset.r = some 0xFFFFFFFF#32 ∧ crcHexOf 0x181989FC#32 = crcHexOf 0x181989FC#32 ∧
    (engine (some 0x00000000#32) false 0#10).r = some 0x00000000#32 := by decide

theorem witness_OutputsDependOnRegisterAlone :
    State.reset.r = some 0xFFFFFFFF#32 ∧ (engine (some 0xFFFFFFFF#32) false 0#10).r = some 0xFFFFFFFF#32 ∧
    ∃ t, step (engine (some 0x9EFBCF93#32) false 0x232#10) = .next t ∧
      t.crcOut ≠ (engine (some 0x9EFBCF93#32) false 0x232#10).crcOut :=
  ⟨rfl, rfl, _, rfl, by decide⟩

theorem witness_CommandVisibleFromNextCycle :
    ([⟨true, 0x3FF#10⟩, ⟨false, 0x231#10⟩, ⟨false, 0x000#10⟩, ⟨false, 0x100#10⟩, ⟨false, 0x3A5#10⟩] :
      List CycleInput)[4]? = some ⟨false, 0x3A5#10⟩ ∧
    ((State.powerUp.trace [⟨true, 0x3FF#10⟩, ⟨false, 0x231#10⟩, ⟨false, 0x000#10⟩, ⟨false, 0x100#10⟩,
      ⟨false, 0x3A5#10⟩]).map fun t => (t.r, t.fault)) =
      [(none, none), (some 0xFFFFFFFF#32, none), (some 0x9EFBCF93#32, none), (some 0x9EFBCF93#32, none),
       (some 0xFFFFFFFF#32, none), (some 0xFFFFFFFF#32, some (.reservedOp 4 0x3A5#10))] ∧
    opField 0x231#10 = 0b10#2 ∧ opField 0x000#10 = 0b00#2 ∧ opField 0x100#10 = 0b01#2 ∧
    opField 0x3A5#10 = 0b11#2 := by decide

theorem witness_EngineComputesReference : State.powerUp.fault = none := rfl

theorem witness_WholeMessageEquivalence :
    State.powerUp.fault = none ∧
    events [⟨false, 0x000#10⟩, ⟨false, 0x100#10⟩, ⟨false, 0x231#10⟩, ⟨false, 0x0FF#10⟩, ⟨false, 0x232#10⟩] =
      .start :: [0x31#8, 0x32#8].map .byte := by decide

theorem witness_NopInsensitivity :
    State.reset.fault = none ∧
    events [⟨false, 0x231#10⟩, ⟨false, 0x000#10⟩] = events [⟨false, 0x0FF#10⟩, ⟨false, 0x231#10⟩] ∧
    ∃ t, Completes State.reset [⟨false, 0x231#10⟩, ⟨false, 0x000#10⟩] [] t :=
  ⟨rfl, by decide, _, rfl⟩

theorem witness_ContinuationWithoutInit : State.powerUp.fault = none := rfl

theorem witness_OnlyBytesSinceLastStartMatter :
    State.reset.fault = none ∧ State.reset.r = some 0xFFFFFFFF#32 ∧
    events [⟨false, 0x261#10⟩, ⟨true, 0x3FF#10⟩, ⟨false, 0x231#10⟩] =
      [.byte 0x61#8] ++ .start :: [0x31#8].map .byte ∧
    ∃ t, Completes State.reset [⟨false, 0x261#10⟩, ⟨true, 0x3FF#10⟩, ⟨false, 0x231#10⟩] [] t :=
  ⟨rfl, rfl, by decide, _, rfl⟩

theorem witness_EmptyMessage :
    State.reset.fault = none ∧ events [⟨false, 0x261#10⟩, ⟨false, 0x100#10⟩] = [.byte 0x61#8] ++ [.start] ∧
    ∃ t, Completes State.reset [⟨false, 0x261#10⟩, ⟨false, 0x100#10⟩] [] t :=
  ⟨rfl, by decide, _, rfl⟩

theorem witness_RunIsFunctionOfEngineAndInputs :
    State.reset.r = (engine (some 0xFFFFFFFF#32) true 0x3FF#10).r ∧
    State.reset.fault = (engine (some 0xFFFFFFFF#32) true 0x3FF#10).fault ∧
    State.reset.cycle ≠ (engine (some 0xFFFFFFFF#32) true 0x3FF#10).cycle ∧
    State.reset.cycle = (State.reset.withInputs [⟨false, 0x100#10⟩]).cycle := by decide

theorem witness_OneChangedByteIsDetected : (0x31 : Byte) ≠ 0x32#8 := by decide

theorem witness_StepKeepsRunInv :
    (engine (some 0x9EFBCF93#32) false 0x232#10).RunInv 4 ∧
    ∃ t, step (engine (some 0x9EFBCF93#32) false 0x232#10) = .next t :=
  ⟨by decide, _, rfl⟩

theorem witness_EveryCommandSequenceCompletes :
    State.reset.Ready ∧ NoReserved [⟨false, 0x2FF#10⟩, ⟨true, 0x3FF#10⟩, ⟨false, 0x0FF#10⟩] := by decide

theorem witness_StepFaultsForTwoCauses :
    (engine none false 0x300#10).fault = none ∧ faultOf (step (engine none false 0x300#10)) = some (.reservedOp 3 0x300#10) ∧
    faultOf (step (engine none false 0x2FF#10)) = some (.unwrittenRegister 3) := by decide

theorem witness_FaultRecordIsSticky :
    State.powerUp.fault = none ∧ State.powerUp.r = none ∧ opField 0x3FF#10 = 0b11#2 ∧ opField 0x200#10 = 0b10#2 ∧
    faulted.fault = some (.reservedOp 2 0x3A5#10) := by decide

theorem witness_ObservationOfFaultFreeRun :
    (State.powerUp.runCycles [⟨false, 0x100#10⟩]).fault = none ∧
    (State.powerUp.runCycles [⟨false, 0x100#10⟩]).r = some 0xFFFFFFFF#32 := by decide

theorem witness_RecordedRunAgreesWithHostRun : ∃ t, Completes State.powerUp [⟨false, 0x100#10⟩] [⟨false, 0x231#10⟩] t :=
  ⟨_, rfl⟩

theorem witness_EnginesAreIndependent :
    [State.reset, State.powerUp][1]? = some State.powerUp ∧
    [⟨true, 0x000#10⟩, (⟨false, 0x100#10⟩ : CycleInput)][1]? = some ⟨false, 0x100#10⟩ := by decide

theorem witness_AssemblerEmitsOnlyWellFormed :
    assemble ['I', 'N', 'I', 'T', '\n', 'R', 'E', 'S', 'E', 'T'] = .ok [⟨false, 0x100#10⟩, ⟨true, 0x000#10⟩] := by decide

end Sys2Proof.Tests
end

section
/-! The known answers S1 to S6 (95_test_vectors.md section 1): each message is folded piece by piece, through register
values written out, and the result stage then gives the source's value. -/

namespace Sys2Proof.Machine

/-- Bytes are folded in order, so a message may be folded in two pieces (R32). -/
theorem foldBytes_append (r : Word) (p q : List Byte) :
    foldBytes r (p ++ q) = foldBytes (foldBytes r p) q :=
  List.foldl_append

/-- The register value after the first `n` bytes is all the rest of a fold needs: a long message is evaluated in short
pieces. -/
theorem foldBytes_of_take_drop {r u v : Word} {m : List Byte} (n : Nat) (hfirst : foldBytes r (m.take n) = u)
    (hrest : foldBytes u (m.drop n) = v) : foldBytes r m = v := by
  rw [← List.take_append_drop n m, foldBytes_append, hfirst, hrest]

/-- The reference function is the result stage (R80, R81) applied to the fold, the columns `r` and `crc_out` of the
known answers. -/
theorem crc32a_of_fold {m : List Byte} {v c : Word} (hfold : fold m = v) (hout : crcOutOf v = c) : crc32a m = c := by
  rw [← hout, ← hfold]
  rfl

/-- Settles O39: each message's fold is the register value in column `r` of 95 section 1, by evaluation in pieces of at
most 12 bytes, and that value's complement, bytes reversed (conflict C1), is the source's answer. -/
theorem knownAnswers : Obligations.KnownAnswers := by
  unfold Obligations.KnownAnswers
  refine ⟨?s1, ?s2, ?s3, ?s4, ?s5, ?s6⟩
  case s1 => exact crc32a_of_fold (v := 0xFFFFFFFF#32) rfl (by decide)
  case s2 => exact crc32a_of_fold (v := 0x0376E6E7#32) (by decide) (by decide)
  case s3 => exact crc32a_of_fold (v := 0x94E58351#32) (by decide) (by decide)
  case s4 =>
    refine crc32a_of_fold (v := 0xF22B7820#32) ?_ (by decide)
    refine foldBytes_of_take_drop 11 (u := 0x67A4BD87#32) (by decide) ?_
    exact foldBytes_of_take_drop 11 (u := 0xC892A6CF#32) (by decide) (by decide)
  case s5 =>
    refine crc32a_of_fold (v := 0xAB9E184B#32) ?_ (by decide)
    refine foldBytes_of_take_drop 10 (u := 0xE3CD6744#32) (by decide) ?_
    refine foldBytes_of_take_drop 10 (u := 0x98E6331D#32) (by decide) ?_
    exact foldBytes_of_take_drop 10 (u := 0xA9C9B883#32) (by decide) (by decide)
  case s6 =>
    refine crc32a_of_fold (v := 0x9ED1BC18#32) ?_ (by decide)
    refine foldBytes_of_take_drop 11 (u := 0x1D45965E#32) (by decide) ?_
    refine foldBytes_of_take_drop 11 (u := 0x89F2AB69#32) (by decide) ?_
    refine foldBytes_of_take_drop 11 (u := 0x1BFE6DCF#32) (by decide) ?_
    refine foldBytes_of_take_drop 11 (u := 0x799BA711#32) (by decide) ?_
    refine foldBytes_of_take_drop 11 (u := 0xFDB38492#32) (by decide) ?_
    refine foldBytes_of_take_drop 11 (u := 0x517DCA9A#32) (by decide) ?_
    exact foldBytes_of_take_drop 11 (u := 0x59359272#32) (by decide) (by decide)

end Sys2Proof.Machine
end

section
/-! The result stage is its own inverse, and the characters on `crc_hex` determine the numeric result (R14, R26). -/

namespace Sys2Proof.Machine

/-- The bit at the same place of the mirrored byte, by the four slices of R8: both later facts are index arithmetic. -/
theorem getLsbD_bswap32 (v : Word) {i : Nat} (hi : i < 32) :
    (bswap32 v).getLsbD i = v.getLsbD (8 * (3 - i / 8) + i % 8) := by
  simp only [bswap32, BitVec.getLsbD_append, BitVec.getLsbD_extractLsb']
  grind

theorem bswap32_bswap32 (v : Word) : bswap32 (bswap32 v) = v := by
  refine BitVec.eq_of_getLsbD_eq fun i hi => ?_
  rw [getLsbD_bswap32 _ hi, getLsbD_bswap32 _ (by omega)]
  congr 1
  omega

theorem bswap32_not (v : Word) : bswap32 (~~~v) = ~~~(bswap32 v) := by
  refine BitVec.eq_of_getLsbD_eq fun i hi => ?_
  rw [getLsbD_bswap32 _ hi, BitVec.getLsbD_not, BitVec.getLsbD_not, getLsbD_bswap32 _ hi]
  simp [hi, show 8 * (3 - i / 8) + i % 8 < 32 by omega]

theorem crcOutOf_involutive : Function.Involutive crcOutOf := fun v => by
  simp only [crcOutOf, finalise, bswap32_not, bswap32_bswap32, BitVec.not_not]

/-- Settles O26: the result stage is an involution, hence a bijection. -/
theorem registerRecoverableFromResult : Obligations.RegisterRecoverableFromResult :=
  ⟨fun _ _ h => crcOutOf_involutive.injective h, crcOutOf_involutive.surjective⟩

theorem packChars_concat (cs : List Byte) (c : Byte) :
    packChars (cs ++ [c]) = packChars cs <<< 8 ||| c.setWidth 64 := by
  simp [packChars]

/-- Byte `j` of the port, counted from the least significant, is the character `j` places before the last (R84). -/
theorem extractLsb'_packChars (cs : List Byte) {j : Nat} (hj : j < 8) :
    (packChars cs).extractLsb' (8 * j) 8 = cs.reverse.getD j 0#8 := by
  induction cs using List.reverseRecOn generalizing j with
  | nil => simp [packChars]
  | append_singleton cs c ih =>
    rw [packChars_concat, List.reverse_append]
    cases j with
    | zero => ext i hi; simp [hi]; omega
    | succ j =>
      have hprev := ih (j := j) (by omega)
      simp only [List.reverse_singleton, List.singleton_append, List.getD_cons_succ, ← hprev]
      ext i hi
      have hpos : 8 * (j + 1) + i - 8 = 8 * j + i := by omega
      have habove : c.getLsbD (8 * (j + 1) + i) = false := BitVec.getLsbD_of_ge c _ (by omega)
      simp [hpos, habove]
      omega

theorem hexDigit_injective : Function.Injective hexDigit := by
  unfold Function.Injective
  decide

theorem extractLsb'_crcHexOf (v : Word) {k : Nat} (hk : k < 8) :
    (crcHexOf v).extractLsb' (8 * (7 - k)) 8 = hexDigit (nibble v k) := by
  rw [crcHexOf, extractLsb'_packChars _ (by omega)]
  have hlast : 8 - 1 - (7 - k) = k := by omega
  have hlt : 7 - k < 8 := by omega
  simp [hexChars, Config.hexLen, hlast, hlt]

/-- A word is determined by its eight nibbles. -/
theorem eq_of_nibble_eq {v w : Word} (h : ∀ k < 8, nibble v k = nibble w k) : v = w := by
  refine BitVec.eq_of_getLsbD_eq fun i hi => ?_
  have hbit := congrArg (BitVec.getLsbD · (i % 4)) (h (7 - i / 4) (by omega))
  have hpos : 28 - 4 * (7 - i / 4) + i % 4 = i := by omega
  simpa [nibble, hpos, Nat.mod_lt] using hbit

theorem crcHexOf_injective : Function.Injective crcHexOf := fun v w h =>
  eq_of_nibble_eq fun k hk => hexDigit_injective <| by
    rw [← extractLsb'_crcHexOf v hk, h, extractLsb'_crcHexOf w hk]

end Sys2Proof.Machine
end

section
/-! What a step does to the register, and what the outputs show of it (10_state.md sections 1 and 2). -/

namespace Sys2Proof.Machine

@[simp] theorem exec_nop (d : Byte) (s : State) : exec (.nop d) s = .next s.advance := rfl

@[simp] theorem exec_update (b : Byte) (s : State) : exec (.update b) s = execUpdate b s := rfl

@[simp] theorem exec_reserved (d : Byte) (s : State) :
    exec (.reserved d) s = .fault (.reservedOp s.cycle (encode (.reserved d))) := rfl

/-- Settles O20, over everything a command can answer: the common fields move in `exec_next_fields`, and each command
that answers a next state writes `r` as its rule says. -/
theorem commandFrame : Obligations.CommandFrame := by
  intro i s t h
  obtain ⟨hfault, hcycle, hinputs⟩ := exec_next_fields h
  refine ⟨hfault, hcycle, hinputs, ?_⟩
  obtain ⟨d, rfl, e⟩ | ⟨d, rfl, e⟩ | ⟨b, v, rfl, hr, e⟩ | ⟨b, rfl, -, e⟩ | ⟨d, rfl, e⟩ := exec_cases i s
  all_goals rw [e] at h; cases h
  · exact s.advance_r
  · exact s.writeR_r _
  · exact ⟨v, hr, rfl⟩

/-- A cycle with `rst = 0` and op 00 that answers a next state leaves `r` alone. -/
theorem cycleStep_nop_next_r {s t : State} {c : CycleInput} (hr : c.rst = false) (hop : opField c.cmd = 0b00#2)
    (h : cycleStep s c = .next t) : t.r = s.r := by
  rw [cycleStep_of_command s hr, decode_of_op00 hop, exec_nop] at h
  cases h
  exact s.advance_r

/-- A cycle with `rst = 0` and op 11 answers no next state (R71). -/
theorem cycleStep_reserved_ne_next {s t : State} {c : CycleInput} (hr : c.rst = false)
    (hop : opField c.cmd = 0b11#2) : cycleStep s c ≠ .next t := by
  rw [cycleStep_of_command s hr, decode_of_op11 hop, exec_reserved]
  nofun

/-- Settles O21: by the four values of `op`, a cycle with `rst = 0` that is neither INIT nor UPDATE leaves `r` alone
or answers no next state. -/
theorem onlyResetInitUpdateWriteRegister : Obligations.OnlyResetInitUpdateWriteRegister := by
  intro s t h hne
  obtain ⟨-, c, cs, hi, hc⟩ := step_next h
  refine ⟨c, cs, hi, ?_⟩
  cases hr : c.rst with
  | true => exact .inl rfl
  | false =>
    obtain hop | hop | hop | hop := opField_cases c.cmd
    · exact absurd (cycleStep_nop_next_r hr hop hc) hne
    · exact .inr (.inl hop)
    · exact .inr (.inr hop)
    · exact absurd hc (cycleStep_reserved_ne_next hr hop)

/-- A step never takes the register's value away (R14, R21). -/
theorem step_keeps_register_value {s t : State} {v : Word} (hv : s.r = some v) (h : step s = .next t) :
    ∃ w, t.r = some w := by
  obtain ⟨-, c, cs, -, hc⟩ := step_next h
  obtain ⟨-, e⟩ | ⟨-, e⟩ | ⟨b, u, -, -, e⟩ | ⟨b, -, -, e⟩ | ⟨-, e⟩ := cycleStep_cases s c
  all_goals rw [e] at hc; cases hc
  · exact ⟨v, hv⟩
  · exact ⟨_, rfl⟩
  · exact ⟨_, rfl⟩

/-- Two engines show the same `crc_out` exactly when they hold the same value. -/
theorem crcOut_eq_iff {s t : State} {v w : Word} (hs : s.r = some v) (ht : t.r = some w) :
    s.crcOut = t.crcOut ↔ v = w := by
  rw [State.crcOut_of_some hs, State.crcOut_of_some ht, Except.ok.injEq, crcOutOf_involutive.injective.eq_iff]

/-- Two engines show the same `crc_hex` exactly when they hold the same value (R85). -/
theorem crcHex_eq_iff {s t : State} {v w : Word} (hs : s.r = some v) (ht : t.r = some w) :
    s.crcHex = t.crcHex ↔ v = w := by
  rw [State.crcHex_of_some hs, State.crcHex_of_some ht, Except.ok.injEq, crcHexOf_injective.eq_iff,
    crcOutOf_involutive.injective.eq_iff]

/-- Settles O30: a step keeps the register's having a value, and between two values each output changes exactly when
the register does. -/
theorem outputsDependOnRegisterAlone : Obligations.OutputsDependOnRegisterAlone := by
  refine ⟨fun s t v hs ht => ?same, fun s c => ⟨rfl, rfl⟩, fun s t v hs h hdiff => ?change⟩
  case same => exact ⟨(crcOut_eq_iff hs ht).2 rfl, (crcHex_eq_iff hs ht).2 rfl⟩
  case change =>
    obtain ⟨w, ht⟩ := step_keeps_register_value hs h
    have hne : w ≠ v := by rwa [Ne, Ne, crcOut_eq_iff ht hs, crcHex_eq_iff ht hs, or_self] at hdiff
    refine ⟨?_, mt (crcOut_eq_iff ht hs).1 hne, mt (crcHex_eq_iff ht hs).1 hne⟩
    rwa [ht, hs, Ne, Option.some_inj]

end Sys2Proof.Machine
end

section
/-! Engines side by side (10_state.md section 4). -/

namespace Sys2Proof.Machine

@[simp] theorem length_clockEngines (ss : List State) (cs : List CycleInput) :
    (clockEngines ss cs).length = ss.length := by
  induction ss generalizing cs with
  | nil => rfl
  | cons s ss ih =>
    cases cs with
    | nil => rfl
    | cons c cs => simp [clockEngines, ih]

/-- Engine `j` takes the inputs at its own place (R28). -/
theorem getElem?_clockEngines {ss : List State} {cs : List CycleInput} {j : Nat} {s : State} {c : CycleInput}
    (hs : ss[j]? = some s) (hc : cs[j]? = some c) : (clockEngines ss cs)[j]? = some (s.clock c) := by
  induction ss generalizing cs j with
  | nil => simp at hs
  | cons s₀ ss ih =>
    cases cs with
    | nil => simp at hc
    | cons c₀ cs =>
      cases j with
      | zero =>
        cases hs
        cases hc
        rfl
      | succ j => exact ih hs hc

/-- Settles O49: by induction on the list of engines. -/
theorem enginesAreIndependent : Obligations.EnginesAreIndependent :=
  fun ss cs _ _ _ hs hc => ⟨getElem?_clockEngines hs hc, length_clockEngines ss cs⟩

end Sys2Proof.Machine
end

section
/-! Reset's values (R27) and the table-index wires (R25). -/

namespace Sys2Proof.Machine

theorem crcOutOf_initValue : crcOutOf Config.initValue = 0x00000000#32 := by decide

theorem crcHexOf_zero : crcHexOf 0x00000000#32 = 0x3030303030303030#64 := by decide

theorem topByte_initValue : topByte Config.initValue = 0xFF#8 := by decide

/-- The outputs while `r` holds the reset value. -/
theorem outputs_of_initValue {s : State} (h : s.r = some Config.initValue) :
    s.crcOut = .ok 0x00000000#32 ∧ s.crcHex = .ok 0x3030303030303030#64 := by
  rw [State.crcOut_of_some h, State.crcHex_of_some h, crcOutOf_initValue, crcHexOf_zero]
  exact ⟨rfl, rfl⟩

/-- A step with `rst = 1` is the reset, whatever is on `cmd` (R90, R100). -/
theorem step_of_rst {s : State} {c : CycleInput} {cs : List CycleInput} (hf : s.fault = none)
    (hi : s.inputs = c :: cs) (hr : c.rst = true) : step s = .next (applyReset s) := by
  rw [step_of_cons hf hi, cycleStep_of_rst s hr]

/-- Settles O11: the reset writes `r`, the outputs follow from its value, and a recorded fault stays. -/
theorem valuesAfterReset : Obligations.ValuesAfterReset := by
  obtain ⟨hcrc, hhex⟩ := outputs_of_initValue (s := State.reset) rfl
  refine ⟨fun s c cs hf hi hr => ?reset, fun s f c hf => ?sticky, rfl, hcrc, hhex, rfl⟩
  case reset =>
    have hv : (applyReset s).r = some Config.initValue := rfl
    obtain ⟨hcrc, hhex⟩ := outputs_of_initValue hv
    refine ⟨applyReset s, step_of_rst hf hi hr, hv, hcrc, hhex, fun d => ?_, fun _ => rfl, rfl⟩
    rw [State.romAddr_of_some d hv, tableIndex, topByte_initValue]
    rfl
  case sticky => rw [State.clock_of_fault c hf, hf]

/-- The two forms of R25's index. -/
theorem tableIndex_eq_shift (v : Word) (b : Byte) :
    tableIndex v b = (((v >>> 24) ^^^ b.setWidth 32) &&& 0xFF#32).setWidth 8 := by
  have hmask : (0xFF#32).setWidth 8 = BitVec.allOnes 8 := rfl
  have htop : topByte v = (v >>> 24).setWidth 8 := by
    ext i hi
    simp [topByte]
  rw [BitVec.setWidth_and, hmask, BitVec.and_allOnes, BitVec.setWidth_xor, tableIndex, htop]
  simp

/-- A step with `rst = 0` and op 10 is the UPDATE of the byte on `cmd[7:0]` (R67, R70). -/
theorem step_of_op10 {s : State} {cmd : Command} {cs : List CycleInput} (hf : s.fault = none)
    (hi : s.inputs = ⟨false, cmd⟩ :: cs) (hop : opField cmd = 0b10#2) : step s = execUpdate (dataField cmd) s := by
  rw [step_of_cons hf hi, cycleStep_of_command s rfl, decode_of_op10 hop, exec_update]

/-- While `r` has a value, what an UPDATE folds in is the entry on `rom_data` (R25). -/
theorem foldByte_eq_romData {s : State} {v : Word} (c : CycleInput) (hv : s.r = some v) :
    foldByte v (dataField c.cmd) = (v <<< 8) ^^^ s.romData c := by
  rw [State.romData, State.romAddr_of_some c hv, foldByte]

/-- Settles O24: the index is `tableIndex` of the register and `cmd[7:0]`, and UPDATE folds in the entry it selects. -/
theorem tableIndexWires : Obligations.TableIndexWires := by
  refine ⟨fun s v rst cmd hv => ?index, fun _ _ => rfl,
    fun s cmd cs hf hi hop => ⟨fun v hv => ?fold, fun hv => ?fault⟩⟩
  case index =>
    have haddr := State.romAddr_of_some ⟨rst, cmd⟩ hv
    exact ⟨haddr, haddr.trans (tableIndex_eq_shift v _)⟩
  case fold =>
    rw [step_of_op10 hf hi hop, execUpdate_of_some _ hv, ← foldByte_eq_romData ⟨false, cmd⟩ hv]
    exact ⟨_, rfl, rfl⟩
  case fault => rw [step_of_op10 hf hi hop, execUpdate_of_none _ hv]

end Sys2Proof.Machine
end

section
/-! The table's fold is long division (20_memory.md section 2, R33): the bit-by-bit fold of a byte is R60's loop with
the byte against the register's top, and the loop only shifts the 24 bits below. -/

namespace Sys2Proof.Machine

/-- Dividing the top bit of `x` into the register is one iteration of R60's loop, up to the bits of `x` that are still
to come. -/
theorem foldBit_xor_shiftLeft (v x : Word) :
    foldBit v (x.getLsbD 31) ^^^ (x <<< 1) = genStep Config.poly (v ^^^ x) := by
  rw [genStep, BitVec.getLsbD_xor, BitVec.shiftLeft_xor_distrib, foldBit]
  split
  · ac_rfl
  · rfl

/-- The first `n` bits of a word, the most significant first. -/
def topBits (x : Word) (n : Nat) : List Bool := (List.range n).map fun k => x.getLsbD (31 - k)

theorem topBits_succ (x : Word) {n : Nat} (hn : n < 32) :
    topBits x (n + 1) = x.getLsbD 31 :: topBits (x <<< 1) n := by
  rw [topBits, List.range_succ_eq_map, List.map_cons, List.map_map]
  refine congrArg (_ :: ·) (List.map_congr_left fun k hmem => ?_)
  have hk : k < n := List.mem_range.mp hmem
  have hin : 31 - k < 32 ∧ ¬31 - k < 1 := by omega
  simp only [Function.comp_apply, BitVec.getLsbD_shiftLeft, hin, decide_true, decide_false, Bool.not_false,
    Bool.true_and, Nat.sub_sub]

/-- `n` divided bits are `n` iterations, up to the bits of `x` that are still to come. -/
theorem foldl_foldBit_topBits (v x : Word) {n : Nat} (hn : n ≤ 32) :
    (topBits x n).foldl foldBit v ^^^ (x <<< n) = genLoop Config.poly n (v ^^^ x) := by
  induction n generalizing v x with
  | zero => simp [topBits, genLoop]
  | succ n ih =>
    rw [topBits_succ x hn, List.foldl_cons, Nat.add_comm n 1, BitVec.shiftLeft_add, ih _ _ (by omega),
      foldBit_xor_shiftLeft, Nat.add_comm 1 n, genLoop]

theorem bitsMsbFirst_eq_topBits (b : Byte) : bitsMsbFirst b = topBits (b.setWidth 32 <<< 24) 8 := by
  simp [bitsMsbFirst, topBits, List.range_succ]

/-- The bit-by-bit fold as R60's loop. -/
theorem foldByteBitwise_eq_genLoop (v : Word) (b : Byte) :
    foldByteBitwise v b = genLoop Config.poly 8 (v ^^^ b.setWidth 32 <<< 24) := by
  have hout : b.setWidth 32 <<< 24 <<< 8 = 0#32 := by
    ext i hi
    simp
  rw [← foldl_foldBit_topBits _ _ (by omega), hout, BitVec.xor_zero, foldByteBitwise, bitsMsbFirst_eq_topBits]

/-- While the bits that come to the top are clear, the loop only shifts. -/
theorem genLoop_of_high_bits_clear (poly : Word) {n : Nat} {v : Word}
    (h : ∀ i, 32 - n ≤ i → v.getLsbD i = false) : genLoop poly n v = v <<< n := by
  induction n generalizing v with
  | zero => simp [genLoop]
  | succ n ih =>
    have htop : v.getLsbD 31 = false := h 31 (by omega)
    have hshift : genStep poly v = v <<< 1 := by rw [genStep, htop, if_neg Bool.false_ne_true]
    have hnext : ∀ i, 32 - n ≤ i → (v <<< 1).getLsbD i = false := fun i hi => by
      simp [h (i - 1) (by omega)]
    rw [genLoop, hshift, ih hnext, ← BitVec.shiftLeft_add, Nat.add_comm]

/-- Eight iterations only shift `r[23:0]`. -/
theorem genLoop_low_bits (poly v : Word) : genLoop poly 8 ((v.setWidth 24).setWidth 32) = v <<< 8 := by
  rw [genLoop_of_high_bits_clear _ fun i hi => by simp; omega]
  refine BitVec.eq_of_getLsbD_eq fun i hi => ?_
  simp only [BitVec.getLsbD_shiftLeft, BitVec.getLsbD_setWidth]
  simp [show i - 8 < 24 ∧ i - 8 < 32 by omega]

/-- A byte against the register's top meets `r[31:24]` and nothing else. -/
theorem xor_shiftLeft_24_eq (v : Word) (b : Byte) :
    v ^^^ b.setWidth 32 <<< 24 = ((v.setWidth 24).setWidth 32) ^^^ (tableIndex v b).setWidth 32 <<< 24 := by
  refine BitVec.eq_of_getLsbD_eq fun i hi => ?_
  simp only [tableIndex, topByte, BitVec.getLsbD_xor, BitVec.getLsbD_shiftLeft, BitVec.getLsbD_setWidth,
    BitVec.getLsbD_extractLsb']
  by_cases hlow : i < 24
  · simp [hi, hlow]
  · have hpos : 24 + (i - 24) = i := by omega
    have hbyte : i - 24 < 8 := by omega
    have hword : i - 24 < 32 := by omega
    simp [hi, hlow, hpos, hbyte, hword]

/-- Settles O40: the loop is linear, so it takes the register's low 24 bits, which it shifts, and the index on the top
byte, which it turns into the table's entry, apart. -/
theorem tableFoldIsLongDivision : Obligations.TableFoldIsLongDivision := by
  intro v b
  rw [foldByteBitwise_eq_genLoop, xor_shiftLeft_24_eq, genLoop_xor, genLoop_low_bits]
  rfl

end Sys2Proof.Machine
end

section
/-! When a command becomes visible (20_memory.md section 5, R41, R105): the states of a trace, and what one cycle does
to the register. -/

namespace Sys2Proof.Machine

/-- The state of cycle `k` is the one the first `k` cycles leave. -/
theorem State.getElem?_trace (s : State) {cs : List CycleInput} {k : Nat} (hk : k ≤ cs.length) :
    (s.trace cs)[k]? = some (s.runCycles (cs.take k)) := by
  induction cs generalizing s k with
  | nil =>
    obtain rfl : k = 0 := Nat.le_zero.mp hk
    rfl
  | cons c cs ih =>
    cases k with
    | zero => rfl
    | succ k => exact ih (s.clock c) (Nat.le_of_succ_le_succ hk)

theorem State.runCycles_take_succ (s : State) {cs : List CycleInput} {k : Nat} {c : CycleInput}
    (hc : cs[k]? = some c) : s.runCycles (cs.take (k + 1)) = (s.runCycles (cs.take k)).clock c := by
  rw [List.take_add_one, hc, State.runCycles_append]
  rfl

/-- What both outputs show of a register value (R81, R84). -/
theorem outputs_of_some {s : State} {v : Word} (h : s.r = some v) :
    s.crcOut = .ok (crcOutOf v) ∧ s.crcHex = .ok (crcHexOf (crcOutOf v)) :=
  ⟨State.crcOut_of_some h, State.crcHex_of_some h⟩

section
variable {s : State} {c : CycleInput} (hf : s.fault = none)
include hf

theorem State.clock_r_of_rst (hr : c.rst = true) : (s.clock c).r = some Config.initValue := by
  rw [State.clock_of_no_fault c hf, cycleStep_of_rst _ hr]
  rfl

/-- A cycle with `rst = 0` settles what its command does. -/
theorem State.clock_of_command (hr : c.rst = false) :
    s.clock c = s.settle (exec (decode c.cmd) (s.withInputs (c :: s.inputs))) := by
  rw [State.clock_of_no_fault c hf, cycleStep_of_command _ hr]

theorem State.clock_r_of_nop (hr : c.rst = false) (hop : opField c.cmd = 0b00#2) : (s.clock c).r = s.r := by
  rw [State.clock_of_command hf hr, decode_of_op00 hop]
  rfl

theorem State.clock_r_of_init (hr : c.rst = false) (hop : opField c.cmd = 0b01#2) :
    (s.clock c).r = some Config.initValue := by
  rw [State.clock_of_command hf hr, decode_of_op01 hop]
  rfl

theorem State.clock_r_of_update {v : Word} (hr : c.rst = false) (hop : opField c.cmd = 0b10#2)
    (hv : s.r = some v) : (s.clock c).r = some (foldByte v (dataField c.cmd)) := by
  rw [State.clock_of_command hf hr, decode_of_op10 hop, exec_update, execUpdate_of_some _ (by simpa using hv)]
  rfl

/-- The fault of a reserved word is recorded and leaves the register alone (R71; log 2). -/
theorem State.clock_r_of_reserved (hr : c.rst = false) (hop : opField c.cmd = 0b11#2) : (s.clock c).r = s.r := by
  rw [State.clock_of_command hf hr, decode_of_op11 hop, exec_reserved]
  rfl

/-- A reset or an INIT gives the register its initial value (R69, R100). -/
theorem State.clock_r_of_start (h : c.rst = true ∨ opField c.cmd = 0b01#2) :
    (s.clock c).r = some Config.initValue := by
  cases hr : c.rst with
  | true => exact State.clock_r_of_rst hf hr
  | false => exact State.clock_r_of_init hf hr (h.resolve_left (by simp [hr]))

end

/-- Settles O31: the state of cycle `k` is the run of the `k` cycles before it, so no command of cycle `k` is in it, and
the state of cycle `k + 1` is one cycle on, whose register the outputs show. -/
theorem commandVisibleFromNextCycle : Obligations.CommandVisibleFromNextCycle := by
  intro s cs k c hc
  have hk : k < cs.length := (List.getElem?_eq_some_iff.mp hc).1
  have hnext := (s.getElem?_trace hk).trans (congrArg some (s.runCycles_take_succ hc))
  refine ⟨_, _, s.getElem?_trace hk.le, hnext, rfl, fun d => ?any, fun v hv => outputs_of_some hv,
    fun hf => ⟨fun hstart => ?start, fun v hr hop hv => ?update, fun v hr hop hv => ?keep⟩⟩
  case any => rw [s.getElem?_trace (by simpa using hk.le), List.take_set_of_le le_rfl]
  case start => exact outputs_of_initValue (State.clock_r_of_start hf hstart)
  case update => exact outputs_of_some (State.clock_r_of_update hf hr hop hv)
  case keep =>
    obtain hop | hop := hop
    · exact outputs_of_some ((State.clock_r_of_nop hf hr hop).trans hv)
    · exact outputs_of_some ((State.clock_r_of_reserved hf hr hop).trans hv)

end Sys2Proof.Machine
end

section
/-! The encoding (30_encoding.md sections 1 and 2): a command is its two fields one after the other, so decoder and
encoder undo each other, and the rows of the opcode map are the four values of `op`. -/

namespace Sys2Proof

@[simp] theorem opField_append (op : BitVec 2) (data : Byte) : opField (op ++ data) = op :=
  BitVec.extractLsb'_append_eq_left

@[simp] theorem dataField_append (op : BitVec 2) (data : Byte) : dataField (op ++ data) = data :=
  BitVec.extractLsb'_append_eq_right

/-- R45: the two fields are the whole word. -/
theorem opField_append_dataField (w : Command) : opField w ++ dataField w = w :=
  (BitVec.extractLsb'_append_extractLsb'_eq_extractLsb' (start₁ := 0) (len₁ := 8) rfl).trans
    BitVec.extractLsb'_eq_self

theorem decode_encode (i : Instr) : decode (encode i) = i := by
  cases i with
  | nop data => rw [encode, decode_of_op00 (opField_append _ data), dataField_append]
  | init data => rw [encode, decode_of_op01 (opField_append _ data), dataField_append]
  | update b => rw [encode, decode_of_op10 (opField_append _ b), dataField_append]
  | reserved data => rw [encode, decode_of_op11 (opField_append _ data), dataField_append]

/-- Settles O4: the encoder puts each instruction's `op` and data into the fields the decoder reads. -/
theorem decodeEncodeRoundTrip : Obligations.DecodeEncodeRoundTrip := decode_encode

theorem encode_decode (w : Command) : encode (decode w) = w := by
  obtain hop | hop | hop | hop := opField_cases w
  · rw [decode_of_op00 hop, encode, ← hop, opField_append_dataField]
  · rw [decode_of_op01 hop, encode, ← hop, opField_append_dataField]
  · rw [decode_of_op10 hop, encode, ← hop, opField_append_dataField]
  · rw [decode_of_op11 hop, encode, ← hop, opField_append_dataField]

/-- Settles O5: by the four values of `op`, the word is its two fields. -/
theorem encodeDecodeRoundTrip : Obligations.EncodeDecodeRoundTrip := encode_decode

/-- The word of UPDATE as R48 writes it. -/
theorem encode_update (b : Byte) : encode (.update b) = 0x200#10 ||| b.setWidth 10 := by
  rw [encode, BitVec.append_def]
  rfl

theorem toNat_opField (w : Command) : (opField w).toNat = w.toNat / 256 := by
  rw [opField, BitVec.extractLsb'_toNat, Nat.shiftRight_eq_div_pow]
  omega

/-- R48: the words of a range are those of one value of `op`. -/
theorem opField_of_range {w : Command} {n : Nat} (hlow : 256 * n ≤ w.toNat) (hhigh : w.toNat ≤ 256 * n + 255) :
    opField w = BitVec.ofNat 2 n := by
  apply BitVec.eq_of_toNat_eq
  rw [toNat_opField, BitVec.toNat_ofNat]
  omega

/-- R48: `mask` keeps `op` where `match` has it. -/
theorem and_mask_eq (w : Command) : w &&& 0x300#10 = (opField w).setWidth 10 <<< 8 := by
  have hmask : 0x300#10 = 0b11#2 ++ 0x00#8 := by decide
  have happend : ∀ op : BitVec 2, (op &&& 0b11#2) ++ 0x00#8 = op.setWidth 10 <<< 8 := by decide
  rw [← happend, ← BitVec.and_zero (x := dataField w), ← BitVec.and_append, ← hmask, opField_append_dataField]

theorem encodesInRow (i : Instr) : Laws.EncodesInRow.Statement i := by
  cases i with
  | nop data => exact Laws.EncodesInRow.nop data
  | init data => exact Laws.EncodesInRow.init data
  | update b => exact Laws.EncodesInRow.update b
  | reserved data => exact Laws.EncodesInRow.reserved data

/-- R48: a word belongs to the row of what it decodes to and to no other row. -/
theorem matches_iff_mnemonic_eq (w : Command) {row : OpcodeRow} (hrow : row ∈ opcodeRows) :
    row.matches w = true ↔ row.mnemonic = (decode w).mnemonic := by
  have hencoded := encodesInRow (decode w) row hrow
  rwa [encode_decode] at hencoded

theorem mask_of_mem_opcodeRows : ∀ row ∈ opcodeRows, row.mask = 0x300#10 := by decide

/-- Settles O2: a range of words is a value of `op`, which decides what the word decodes to; `mask` keeps exactly `op`,
and a word matches the row of its own mnemonic only. -/
theorem opcodeMapByRange : Obligations.OpcodeMapByRange := by
  refine fun w => ⟨fun h => ?nop, fun h => ?init, fun h => ?update, fun h => ?reserved, rfl, fun row hrow => ?row⟩
  case nop =>
    have hop := opField_of_range (n := 0) (Nat.zero_le _) h
    exact ⟨hop, decode_of_op00 hop⟩
  case init =>
    have hop := opField_of_range (n := 1) h.1 h.2
    exact ⟨hop, decode_of_op01 hop⟩
  case update =>
    have hop := opField_of_range (n := 2) h.1 h.2
    have hdecode := decode_of_op10 hop
    refine ⟨hop, hdecode, ?_⟩
    rw [← encode_update, ← hdecode, encode_decode]
  case reserved =>
    have hop := opField_of_range (n := 3) h (by omega)
    exact ⟨hop, decode_of_op11 hop⟩
  case row =>
    have hmask := mask_of_mem_opcodeRows row hrow
    refine ⟨hmask, by rw [hmask, and_mask_eq], ?_⟩
    rw [← matches_iff_mnemonic_eq w hrow, OpcodeRow.matches, beq_iff_eq]

/-- Each mnemonic names one row. -/
theorem filter_opcodeRows_mnemonic (i : Instr) :
    (opcodeRows.filter fun row => row.mnemonic == i.mnemonic).map OpcodeRow.mnemonic = [i.mnemonic] := by
  cases i <;> rfl

end Sys2Proof

namespace Sys2Proof.Machine

/-- Settles O3: the rows a word matches are those of its mnemonic, of which there is one; the step and the fields a
command moves are `cycleStep_of_command` and `exec_next_fields`. -/
theorem oneWordOneCommandOneCycle : Obligations.OneWordOneCommandOneCycle := by
  refine ⟨fun w => ?row, fun s c cs hf hi hr => ?step, fun i s t h => ?cycle⟩
  case row =>
    rw [← filter_opcodeRows_mnemonic (decode w)]
    refine congrArg _ (List.filter_congr fun row hrow => ?_)
    rw [Bool.eq_iff_iff, matches_iff_mnemonic_eq w hrow, beq_iff_eq]
  case step => rw [step_of_cons hf hi, cycleStep_of_command s hr]
  case cycle =>
    obtain ⟨-, hcycle, hinputs⟩ := exec_next_fields h
    exact ⟨hinputs, hcycle⟩

@[simp] theorem exec_init (d : Byte) (s : State) :
    exec (.init d) s = .next (s.writeR Config.initValue).advance := rfl

/-- Settles O6: neither meaning reads its data, which reaches `rom_addr` by `tableIndex` alone. -/
theorem nopAndInitIgnoreData : Obligations.NopAndInitIgnoreData := by
  refine ⟨fun d d' s => ?outcome, fun w => ⟨decode_of_op00, decode_of_op01⟩, fun s c v hv => ?address,
    rfl, rfl, rfl, rfl⟩
  case outcome => exact ⟨by rw [exec_nop, exec_nop], by rw [exec_init, exec_init]⟩
  case address => exact State.romAddr_of_some c hv

end Sys2Proof.Machine
end

section
/-! The assembler (30_encoding.md section 3): the cycles a line stands for, and what a whole text assembles to. -/

namespace Sys2Proof.Machine

/-- R54: one UPDATE line per byte, in order. -/
theorem cycles_updates (m : List Byte) :
    (AsmLine.updates m).cycles = (m.map AsmLine.update).flatMap AsmLine.cycles := by
  rw [List.flatMap_map]
  exact List.map_eq_flatMap

/-- R56: `n` NOP lines. -/
theorem cycles_idle (n : Nat) :
    (AsmLine.idle n).cycles = (List.replicate n AsmLine.nop).flatMap AsmLine.cycles := by
  rw [List.flatMap_replicate]
  exact List.flatten_replicate_singleton.symm

/-- Settles O50: a pseudo-instruction that repeats a line is the cycles of its lines in order, and the word of UPDATE is
`encode_update`. -/
theorem pseudoInstructionExpansions : Obligations.PseudoInstructionExpansions := by
  refine ⟨rfl, cycles_idle, rfl, cycles_updates, fun b => ?update, rfl⟩
  case update =>
    rw [← encode_update]
    rfl

/-- A RESET, or a command an assembler may emit (R49, R50, R52). -/
abbrev CycleInput.Emittable (c : CycleInput) : Prop :=
  c = ⟨true, 0x000#10⟩ ∨ c.rst = false ∧ (decode c.cmd).wellFormed = true

theorem emittable_commandCycle {i : Instr} (h : i.wellFormed = true) : CycleInput.Emittable (commandCycle i) :=
  .inr ⟨rfl, by rwa [commandCycle, decode_encode]⟩

theorem emittable_of_mem_updatesCycles {m : List Byte} {c : CycleInput} (hc : c ∈ updatesCycles m) :
    CycleInput.Emittable c := by
  obtain ⟨b, -, rfl⟩ := List.mem_map.1 hc
  exact emittable_commandCycle rfl

theorem AsmLine.emittable_of_mem_cycles {l : AsmLine} {c : CycleInput} (hc : c ∈ l.cycles) :
    CycleInput.Emittable c := by
  cases l with
  | nop | init | update b =>
    obtain rfl := List.mem_singleton.1 hc
    exact emittable_commandCycle rfl
  | reset => exact .inl (List.mem_singleton.1 hc)
  | updates m => exact emittable_of_mem_updatesCycles hc
  | crc m =>
    obtain rfl | hc := List.mem_cons.1 hc
    · exact emittable_commandCycle rfl
    · exact emittable_of_mem_updatesCycles hc
  | idle n =>
    obtain rfl := List.eq_of_mem_replicate hc
    exact emittable_commandCycle rfl

/-- Lines that assemble were all read, and give their cycles in order. -/
theorem assembleLines_cons_ok {l : List Char} {ls : List (List Char)} {cs : List CycleInput}
    (h : assembleLines (l :: ls) = .ok cs) :
    ∃ line ds, readLine l = .ok line ∧ assembleLines ls = .ok ds ∧ cs = line.elim [] AsmLine.cycles ++ ds := by
  rw [assembleLines] at h
  split at h
  next a ds hl hls =>
    cases h
    exact ⟨some a, ds, hl, hls, rfl⟩
  next hl hls =>
    cases h
    exact ⟨none, cs, hl, hls, rfl⟩
  all_goals cases h

theorem emittable_of_assembleLines {ls : List (List Char)} {cs : List CycleInput} (h : assembleLines ls = .ok cs) :
    ∀ c ∈ cs, CycleInput.Emittable c := by
  induction ls generalizing cs with
  | nil =>
    cases h
    nofun
  | cons l ls ih =>
    obtain ⟨line, ds, -, hls, rfl⟩ := assembleLines_cons_ok h
    intro c hc
    obtain hc | hc := List.mem_append.1 hc
    · cases line with
      | none => cases hc
      | some a => exact AsmLine.emittable_of_mem_cycles hc
    · exact ih hls c hc

/-- Settles O51: the lines of the text assemble one by one, each to cycles an assembler may emit. -/
theorem assemblerEmitsOnlyWellFormed : Obligations.AssemblerEmitsOnlyWellFormed :=
  fun _ _ h => emittable_of_assembleLines h

end Sys2Proof.Machine
end

section
/-! The table (40_table_rom.md): R60's loop is linear and, for an odd polynomial, one-to-one, so the table's properties
(R64) are those of the loop; the listing (R65) is the table's entries in order. -/

namespace Sys2Proof.Machine

/-- The loop is an iteration of its step. -/
theorem genLoop_eq_iterate (poly : Word) (n : Nat) : genLoop poly n = (genStep poly)^[n] := by
  induction n with
  | zero => rfl
  | succ n ih =>
    funext v
    rw [genLoop, ih, Function.iterate_succ_apply]

/-- The shift leaves bit 0 clear, so an odd polynomial shows there whether bit 31 was set. -/
theorem getLsbD_zero_genStep {poly : Word} (hodd : poly.getLsbD 0 = true) (v : Word) :
    (genStep poly v).getLsbD 0 = v.getLsbD 31 := by
  rw [genStep_eq, BitVec.getLsbD_xor]
  cases v.getLsbD 31 <;> simp [hodd]

/-- Equal results come from equal top bits, hence from equal shifted words. -/
theorem genStep_injective {poly : Word} (hodd : poly.getLsbD 0 = true) : Function.Injective (genStep poly) := by
  intro v w h
  have htop : v.getLsbD 31 = w.getLsbD 31 := by
    rw [← getLsbD_zero_genStep hodd, h, getLsbD_zero_genStep hodd]
  have hshift : v <<< 1 = w <<< 1 := by
    rwa [genStep_eq, genStep_eq, htop, BitVec.xor_left_inj] at h
  ext i hi
  obtain hlow | rfl : i + 1 < 32 ∨ i = 31 := by omega
  · simpa [hlow] using congrArg (BitVec.getLsbD · (i + 1)) hshift
  · exact htop

theorem genLoop_injective {poly : Word} (hodd : poly.getLsbD 0 = true) (n : Nat) :
    Function.Injective (genLoop poly n) := by
  rw [genLoop_eq_iterate]
  exact (genStep_injective hodd).iterate n

/-- `b << 24` keeps every bit of the byte. -/
theorem shiftLeft_24_injective : Function.Injective fun b : Byte => b.setWidth 32 <<< 24 := by
  intro a b h
  refine BitVec.eq_of_getLsbD_eq fun i hi => ?_
  have hbit := congrArg (BitVec.getLsbD · (24 + i)) h
  simpa [hi, show 24 + i < 32 by omega, show i < 32 by omega] using hbit

/-- The first half of R64 (c). -/
theorem romRead_xor (a b : Byte) : romRead (a ^^^ b) = romRead a ^^^ romRead b := by
  simp only [romRead, genEntry, BitVec.setWidth_xor, BitVec.shiftLeft_xor_distrib, genLoop_xor]

/-- R64 (e): R6's polynomial is odd. -/
theorem romRead_injective : Function.Injective romRead :=
  (genLoop_injective (by decide) 8).comp shiftLeft_24_injective

/-- A byte put together from its bits below `n`. -/
def xorOfBits (b : Byte) (n : Nat) : Byte :=
  (List.range n).foldl (fun v k => if b.getLsbD k then v ^^^ (1#8 <<< k) else v) 0#8

theorem xorOfBits_succ (b : Byte) (n : Nat) :
    xorOfBits b (n + 1) = if b.getLsbD n then xorOfBits b n ^^^ (1#8 <<< n) else xorOfBits b n := by
  rw [xorOfBits, List.range_succ, List.foldl_append]
  rfl

theorem getLsbD_xorOfBits (b : Byte) (n i : Nat) :
    (xorOfBits b n).getLsbD i = (decide (i < n) && b.getLsbD i) := by
  induction n with
  | zero => simp [xorOfBits]
  | succ n ih =>
    rw [xorOfBits_succ]
    have hpow : (1#8 <<< n).getLsbD i = (decide (n < 8) && decide (n = i)) := BitVec.getLsbD_twoPow n i
    obtain rfl | hne := eq_or_ne n i
    · split
      next hset =>
        rw [BitVec.getLsbD_xor, ih, hpow, hset]
        simp [BitVec.lt_of_getLsbD hset]
      next hclear => simp [ih, hclear]
    · have hlt : decide (i < n + 1) = decide (i < n) := decide_eq_decide.2 (by omega)
      split
      · rw [BitVec.getLsbD_xor, ih, hpow, decide_eq_false hne, Bool.and_false, Bool.xor_false, hlt]
      · rw [ih, hlt]

theorem xorOfBits_eight (b : Byte) : xorOfBits b 8 = b := by
  refine BitVec.eq_of_getLsbD_eq fun i hi => ?_
  rw [getLsbD_xorOfBits, decide_eq_true hi, Bool.true_and]

/-- The second half of R64 (c): linearity takes `T` through the sum of the byte's bits. -/
theorem romRead_eq_foldl_bits (b : Byte) :
    romRead b = (List.range 8).foldl (fun v k => if b.getLsbD k then v ^^^ romRead (1#8 <<< k) else v) 0#32 := by
  have hzero : romRead 0#8 = 0#32 := by decide
  conv_lhs => rw [← xorOfBits_eight b, xorOfBits]
  rw [← hzero]
  refine (List.foldl_hom romRead fun v k => ?_).symm
  split
  · exact (romRead_xor v _).symm
  · rfl

/-- Settles O23: the table takes linearity and distinctness from R60's loop; the four entries R64 names are evaluated. -/
theorem tableIsLinearWithDistinctEntries : Obligations.TableIsLinearWithDistinctEntries :=
  ⟨by decide, by decide, romRead_xor, romRead_eq_foldl_bits, by decide, by decide, fun _ _ h => romRead_injective h⟩

/-- The table's entries from `start` on, in order. -/
def romEntries (start len : Nat) : List Word :=
  (List.range' start len).map fun i => romRead (BitVec.ofNat 8 i)

theorem romEntries_append (start m n : Nat) :
    romEntries start m ++ romEntries (start + m) n = romEntries start (m + n) := by
  rw [romEntries, romEntries, ← List.map_append, List.range'_append_1, romEntries]

theorem romListing0_eq : romListing0 = romEntries 0 64 := by decide

theorem romListing1_eq : romListing1 = romEntries 64 64 := by decide

theorem romListing2_eq : romListing2 = romEntries 128 64 := by decide

theorem romListing3_eq : romListing3 = romEntries 192 64 := by decide

/-- R65: the listing, evaluated a quarter at a time. -/
theorem romListing_eq : romListing = romEntries 0 256 := by
  rw [romListing, romListing0_eq, romListing1_eq, romListing2_eq, romListing3_eq, romEntries_append 0 64,
    romEntries_append 0 128, romEntries_append 0 192]

theorem getElem?_romListing (b : Byte) : romListing[b.toNat]? = some (romRead b) := by
  rw [romListing_eq, romEntries, List.getElem?_map, List.getElem?_range' b.isLt]
  simp

/-- Settles O22: R60's loop is the iteration of its step, and the listing is the table's entries in order. -/
theorem tableHoldsGeneratedListing : Obligations.TableHoldsGeneratedListing := by
  refine ⟨?length, rfl, fun b => ⟨?generated, getElem?_romListing b⟩⟩
  case length =>
    rw [romListing_eq, romEntries, List.length_map, List.length_range']
    rfl
  case generated =>
    rw [romRead, genEntry, genLoop_eq_iterate]
    rfl

end Sys2Proof.Machine
end

section
/-! A run read as its events (20_memory.md R31, R32): what a list of events makes of the register decides whether a
list of cycles completes and in which state, and NOPs have no part in it. -/

namespace Sys2Proof.Machine

/-- What an event makes of the register (R69, R70, R100); nothing where the event is a fault (R71, R72). -/
def Event.apply : Option Word → Event → Option (Option Word)
  | _, .start => some (some Config.initValue)
  | some v, .byte b => some (some (foldByte v b))
  | none, .byte _ => none
  | _, .invalid _ => none

/-- The register after events in order; nothing where one of them is a fault. -/
def registerAfter (r : Option Word) (es : List Event) : Option (Option Word) := es.foldlM Event.apply r

@[simp] theorem registerAfter_nil (r : Option Word) : registerAfter r [] = some r := rfl

theorem registerAfter_cons (r : Option Word) (e : Event) (es : List Event) :
    registerAfter r (e :: es) = (Event.apply r e).bind (registerAfter · es) := List.foldlM_cons

theorem registerAfter_append (r : Option Word) (es fs : List Event) :
    registerAfter r (es ++ fs) = (registerAfter r es).bind (registerAfter · fs) := List.foldlM_append

@[simp] theorem registerAfter_singleton (r : Option Word) (e : Event) : registerAfter r [e] = Event.apply r e :=
  Option.bind_fun_some _

/-- A register with a value folds any number of bytes (R70, R76). -/
theorem registerAfter_bytes (v : Word) (m : List Byte) :
    registerAfter (some v) (m.map .byte) = some (some (foldBytes v m)) := by
  induction m generalizing v with
  | nil => rfl
  | cons b m ih =>
    rw [List.map_cons, registerAfter_cons]
    exact ih (foldByte v b)

/-- A start discards whatever the register held (R69, R104). -/
theorem registerAfter_start_bytes (r : Option Word) (m : List Byte) :
    registerAfter r (.start :: m.map .byte) = some (some (fold m)) := registerAfter_bytes Config.initValue m

theorem events_cons (c : CycleInput) (cs : List CycleInput) : events (c :: cs) = events [c] ++ events cs :=
  List.filterMap_append (l := [c])

theorem events_append (cs ds : List CycleInput) : events (cs ++ ds) = events cs ++ events ds := List.filterMap_append

/-- The fault of a cycle that raises one (R71, R72). -/
def cycleFault (n : Nat) (c : CycleInput) : Fault :=
  match eventOf c with
  | some (.invalid w) => .reservedOp n w
  | _ => .unwrittenRegister n

/-- A cycle writes what its event makes of the register, and faults where that is nothing. -/
theorem cycleStep_eq_registerAfter (s : State) (c : CycleInput) :
    cycleStep s c = (registerAfter s.r (events [c])).elim (.fault (cycleFault s.cycle c))
      fun r => .next ⟨r, s.fault, s.cycle + 1, s.inputs.tail⟩ := by
  obtain ⟨he, hc⟩ | ⟨he, hc⟩ | ⟨b, v, he, hv, hc⟩ | ⟨b, he, hv, hc⟩ | ⟨he, hc⟩ := cycleStep_cases s c
  all_goals rw [hc]
  · simp [events, he, State.advance]
  · simp [events, he, Event.apply, State.advance, State.writeR]
  · simp [events, he, hv, Event.apply, State.advance, State.writeR]
  · simp [events, he, hv, Event.apply, cycleFault]
  · simp [events, he, Event.apply, cycleFault, encode_decode]

/-- A list completes exactly when its events leave a register, and that register, the position after all its cycles and
the list's rest are the state it ends in. -/
theorem completes_iff {s t : State} {cs rest : List CycleInput} (hf : s.fault = none) :
    Completes s cs rest t ↔
      ∃ r, registerAfter s.r (events cs) = some r ∧ t = ⟨r, none, s.cycle + cs.length, rest⟩ := by
  induction cs generalizing s with
  | nil =>
    have hend : s.withInputs rest = ⟨s.r, none, s.cycle, rest⟩ := by rw [← hf]; rfl
    constructor
    · intro h
      cases h
      exact ⟨s.r, rfl, hend⟩
    · rintro ⟨r, hr, rfl⟩
      cases hr
      exact hend ▸ completes_nil s rest
  | cons c cs ih =>
    rw [events_cons, registerAfter_append, List.length_cons]
    have hc := cycleStep_eq_registerAfter (s.withInputs (c :: (cs ++ rest))) c
    rw [State.withInputs_r] at hc
    cases hr : registerAfter s.r (events [c]) with
    | none =>
      rw [hr] at hc
      refine ⟨fun h => ?_, nofun⟩
      obtain ⟨-, u, hu, -⟩ := completes_cons_inv h
      cases hc.symm.trans hu
    | some r₁ =>
      rw [hr] at hc
      have hfirst : Completes s (c :: cs) rest t ↔
          Completes ⟨r₁, s.fault, s.cycle + 1, cs ++ rest⟩ cs rest t := by
        refine ⟨fun h => ?_, completes_cons hf hc⟩
        obtain ⟨-, u, hu, h⟩ := completes_cons_inv h
        cases hc.symm.trans hu
        exact h
      rw [hfirst, ih (by exact hf), Option.bind_some, Nat.add_right_comm, Nat.add_assoc]

theorem eventOf_of_op00 {c : CycleInput} (hr : c.rst = false) (hop : opField c.cmd = 0b00#2) : eventOf c = none := by
  rw [eventOf, hr, decode_of_op00 hop]
  rfl

/-- A list of NOPs has no events (R32). -/
theorem events_of_nops {cs : List CycleInput} (h : ∀ c ∈ cs, CycleInput.rst c = false ∧ opField c.cmd = 0b00#2) :
    events cs = [] :=
  List.filterMap_eq_nil_iff.2 fun c hc => eventOf_of_op00 (h c hc).1 (h c hc).2

theorem eventOf_commandCycle_update (b : Byte) : eventOf (commandCycle (.update b)) = some (.byte b) := by
  simp only [eventOf, commandCycle, decode_encode]
  rfl

/-- UPDATES are the bytes of their message (R54). -/
theorem events_updates (m : List Byte) : events (AsmLine.updates m).cycles = m.map .byte := by
  rw [events, AsmLine.cycles, updatesCycles, List.filterMap_map, ← List.filterMap_eq_map]
  exact congrArg (List.filterMap · m) (funext eventOf_commandCycle_update)

/-- `CRC "m"` is a start and then the bytes of `m` (R55). -/
theorem events_crc (m : List Byte) : events (AsmLine.crc m).cycles = .start :: m.map .byte :=
  congrArg (Event.start :: ·) (events_updates m)

/-- The result stage shows the checksum of the bytes folded (R80, R81, R86). -/
theorem crcOut_of_fold {s : State} {m : List Byte} (h : s.r = some (fold m)) : s.crcOut = .ok (crc32a m) :=
  State.crcOut_of_some h

end Sys2Proof.Machine
end

section
/-! The engine's commands one by one (41_engine_commands.md sections 1 and 2). -/

namespace Sys2Proof.Machine

/-- Settles O7: `rst` and the fault record are all that a step tests before it runs the command. -/
theorem stepRunsDecodedCommand : Obligations.StepRunsDecodedCommand := by
  intro s c cs hf hi hr
  rw [step_of_cons hf hi, cycleStep_of_command s hr]

/-- Settles O15: a NOP is the advance of the position, and a list of NOPs has no events, so it completes with the
register it started from. -/
theorem nopChangesNothing : Obligations.NopChangesNothing := by
  refine ⟨fun w => decode_of_op00, rfl, exec_nop, fun s cs rest hf hnops => ?nops, fun d s hv => ?value⟩
  case nops =>
    refine ⟨_, (completes_iff hf).2 ⟨s.r, by rw [events_of_nops hnops, registerAfter_nil], rfl⟩, rfl, fun v hv => ?_⟩
    exact outputsDependOnRegisterAlone.1 _ s v hv hv
  case value =>
    refine ⟨s.advance, exec_nop d s, hv, ?_⟩
    rw [State.crcOut_of_some (s := s.advance) hv]
    decide

/-- Settles O16: INIT writes the initial value, which does not depend on the state it is given. -/
theorem initStartsMessage : Obligations.InitStartsMessage :=
  ⟨fun _ => decode_of_op01, rfl, exec_init, fun d d' s => ⟨_, _, exec_init d s, exec_init d' _, rfl⟩,
    fun d s => ⟨_, exec_init d s, rfl⟩, fun d s _ => ⟨_, exec_init d s, rfl, (outputs_of_initValue rfl).1⟩⟩

/-- When the byte meets its own value on the register's top, the index is 0 and the fold only shifts (R70). -/
theorem foldByte_of_topByte_eq {v : Word} {b : Byte} (h : topByte v = b) : foldByte v b = v <<< 8 := by
  have hzero : romRead 0#8 = 0#32 := by decide
  rw [foldByte, tableIndex, h, BitVec.xor_self, hzero, BitVec.xor_zero]

theorem foldByte_zero (b : Byte) : foldByte 0x00000000#32 b = romRead b := by
  have htop : topByte 0x00000000#32 = 0x00#8 := by decide
  rw [foldByte, tableIndex, htop, BitVec.zero_xor, BitVec.zero_shiftLeft, BitVec.zero_xor]

/-- The shift of R70 drops `r[31:24]` and brings in zeros. -/
theorem extractLsb'_shiftLeft_eight (v : Word) :
    (v <<< 8).extractLsb' 0 8 = 0x00#8 ∧ (v <<< 8).extractLsb' 8 24 = v.extractLsb' 0 24 := by
  constructor
  · ext i hi
    simp [hi]
  · ext i hi
    simp
    omega

/-- Settles O17: the fold is the model's `foldByte`, whose index is `tableIndex` in both forms; R70's corner cases with
any byte follow from `T[0]` = 0, and the examples are evaluated. -/
theorem updateFoldsByte : Obligations.UpdateFoldsByte :=
  ⟨fun _ => decode_of_op10, encode_update, fun b _ _ hv => execUpdate_of_some b hv, fun b v => tableIndex_eq_shift v b,
    fun b _ hv => execUpdate_of_none b hv, extractLsb'_shiftLeft_eight, fun _ _ => foldByte_of_topByte_eq, by decide,
    foldByte_zero, by decide, by decide, by decide, by decide, by decide⟩

/-- R71: the fault holds the whole word. -/
theorem exec_decode_of_op11 {w : Command} (hop : opField w = 0b11#2) (s : State) :
    exec (decode w) s = .fault (.reservedOp s.cycle w) := by
  have hword : encode (.reserved (dataField w)) = w := by rw [← decode_of_op11 hop, encode_decode]
  rw [decode_of_op11 hop, exec_reserved, hword]

/-- A reserved word outside reset enters the record and changes nothing else (R71; log 2). -/
theorem State.clock_of_reserved {s : State} {w : Command} (hf : s.fault = none) (hop : opField w = 0b11#2) :
    s.clock ⟨false, w⟩ = s.record (.reservedOp s.cycle w) := by
  rw [State.clock_of_command hf rfl, exec_decode_of_op11 hop]
  rfl

/-- A run changes nothing once a fault is recorded (R89). -/
theorem State.runCycles_of_fault {s : State} {f : Fault} (cs : List CycleInput) (h : s.fault = some f) :
    s.runCycles cs = s := by
  induction cs with
  | nil => rfl
  | cons c cs ih => rw [State.runCycles_cons, State.clock_of_fault c h, ih]

/-- No observation exists once a fault is recorded (R12, R89). -/
theorem State.observeRun_of_fault {s : State} {f : Fault} (cs : List CycleInput) (h : s.fault = some f) :
    s.observeRun cs = .error f := by
  rw [State.observeRun, State.runCycles_of_fault cs h, State.observe_of_fault h]

/-- Settles O18: the reserved word is a fault for `exec` and its record for the run, and a recorded fault stops every
later step; the example is evaluated. -/
theorem reservedWordFaults : Obligations.ReservedWordFaults := by
  refine ⟨fun w => decode_of_op11, fun w s hop => exec_decode_of_op11 hop s,
    fun s w cs hf hi => ⟨_, step_of_rst hf hi rfl⟩, fun s w hf hop => ?recorded, by decide⟩
  case recorded =>
    have hfault : (s.clock ⟨false, w⟩).fault = some (.reservedOp s.cycle w) := by
      rw [State.clock_of_reserved hf hop, State.record_of_none _ hf]
    refine ⟨State.clock_r_of_reserved hf rfl hop, hfault, fun c => step_of_fault hfault, fun cs => ?_⟩
    exact State.observeRun_of_fault cs hfault

/-- A reset or an INIT writes the initial value (R69, R100). -/
theorem cycleStep_of_start (s : State) {c : CycleInput} (h : c.rst = true ∨ opField c.cmd = 0b01#2) :
    cycleStep s c = .next (s.writeR Config.initValue).advance := by
  cases hr : c.rst with
  | true => exact cycleStep_of_rst s hr
  | false => rw [cycleStep_of_command s hr, decode_of_op01 (h.resolve_left (by simp [hr])), exec_init]

/-- Without a value in the register, a cycle that is neither reset nor INIT leaves none where it answers a next state:
NOP does, and UPDATE (R72) and the reserved word (R71) answer a fault. -/
theorem cycleStep_next_r_of_none {s t : State} {c : CycleInput} (hv : s.r = none) (hr : c.rst = false)
    (hop : opField c.cmd ≠ 0b01#2) (h : cycleStep s c = .next t) : t.r = none := by
  obtain hop' | hop' | hop' | hop' := opField_cases c.cmd
  · rw [cycleStep_nop_next_r hr hop' h, hv]
  · exact absurd hop' hop
  · rw [cycleStep_of_command s hr, decode_of_op10 hop', exec_update, execUpdate_of_none _ hv] at h
    cases h
  · exact absurd h (cycleStep_reserved_ne_next hr hop')

/-- Settles O19: a reset or an INIT writes a value, and no other cycle that answers a next state writes one. -/
theorem updateOfUnwrittenRegisterFaults : Obligations.UpdateOfUnwrittenRegisterFaults := by
  refine ⟨fun b s hv => execUpdate_of_none b hv, rfl, fun s t c cs hi hv h => ⟨fun ht => ?other, fun hc => ?none⟩⟩
  all_goals
    obtain ⟨-, c', cs', hi', hc'⟩ := step_next h
    cases hi.symm.trans hi'
  case other =>
    have hstart : ¬(c.rst = true ∨ opField c.cmd = 0b01#2) := fun hstart => by
      rw [cycleStep_of_start s hstart] at hc'
      cases hc'
      cases ht
    rwa [not_or, Bool.not_eq_true] at hstart
  case none => exact cycleStep_next_r_of_none hv hc.1 hc.2 hc'

end Sys2Proof.Machine
end

section
/-! The properties of a run (41_engine_commands.md section 3): each is one of its list's events. -/

namespace Sys2Proof.Machine

/-- Settles O33: a start and the bytes of `m` leave `fold m` in the register, whatever it held. -/
theorem wholeMessageEquivalence : Obligations.WholeMessageEquivalence := by
  intro s m cs rest hf he
  have hr := registerAfter_start_bytes s.r m
  rw [← he] at hr
  exact ⟨_, (completes_iff hf).2 ⟨_, hr, rfl⟩, rfl, crcOut_of_fold rfl, rfl, rfl, rfl⟩

/-- Settles O34: the register a list ends in is that of its events. -/
theorem nopInsensitivity : Obligations.NopInsensitivity := by
  intro s t cs ds rest rest' hf he h
  obtain ⟨r, hr, rfl⟩ := (completes_iff hf).1 h
  rw [he] at hr
  exact ⟨_, (completes_iff hf).2 ⟨r, hr, rfl⟩, rfl, rfl, Nat.add_right_comm _ _ _⟩

/-- Settles O35: the events of the two lines are one start and the bytes of both messages, which is O33's case. -/
theorem continuationWithoutInit : Obligations.ContinuationWithoutInit := by
  refine ⟨fun s m₁ m₂ rest hf => ?run, by decide⟩
  case run =>
    have he : events ((AsmLine.crc m₁).cycles ++ (AsmLine.updates m₂).cycles) = .start :: (m₁ ++ m₂).map .byte := by
      rw [events_append, events_crc, events_updates, List.cons_append, List.map_append]
    obtain ⟨t, hrun, hr, hout, -⟩ := wholeMessageEquivalence s (m₁ ++ m₂) _ rest hf he
    exact ⟨t, hrun, hr, hout⟩

/-- Settles O36: whatever register the events before the last start leave, the start discards it. -/
theorem onlyBytesSinceLastStartMatter : Obligations.OnlyBytesSinceLastStartMatter := by
  refine ⟨fun s t cs rest pre m hf he h => ?since, fun s v m rest hf hv => ?updates, knownAnswers.1⟩
  case since =>
    obtain ⟨r, hr, rfl⟩ := (completes_iff hf).1 h
    rw [he, registerAfter_append, Option.bind_eq_some_iff] at hr
    obtain ⟨r₀, -, hr⟩ := hr
    obtain rfl : some (fold m) = r := Option.some.inj ((registerAfter_start_bytes r₀ m).symm.trans hr)
    exact ⟨rfl, crcOut_of_fold rfl⟩
  case updates =>
    have hr := registerAfter_bytes v m
    rw [← hv, ← events_updates] at hr
    exact ⟨_, (completes_iff hf).2 ⟨_, hr, rfl⟩, rfl⟩

/-- The state after a cycle: its event's register, or the record of its fault where there is none. -/
theorem State.clock_eq_registerAfter {s : State} (c : CycleInput) (hf : s.fault = none) :
    s.clock c = (registerAfter s.r (events [c])).elim (s.record (cycleFault s.cycle c))
      fun r => ⟨r, s.fault, s.cycle + 1, s.inputs⟩ := by
  rw [State.clock_of_no_fault c hf, cycleStep_eq_registerAfter, State.withInputs_r]
  cases registerAfter s.r (events [c]) with
  | none => rfl
  | some r => rfl

/-- The same register, and both stopped by a fault or neither. -/
structure State.SameEngine (s t : State) : Prop where
  r : s.r = t.r
  stopped : s.fault = none ↔ t.fault = none

theorem State.SameEngine.clock {s t : State} (h : s.SameEngine t) (c : CycleInput) :
    (s.clock c).SameEngine (t.clock c) := by
  cases hs : s.fault with
  | none =>
    have ht := h.stopped.1 hs
    rw [State.clock_eq_registerAfter c hs, State.clock_eq_registerAfter c ht, h.r]
    cases registerAfter t.r (events [c]) with
    | none => exact ⟨h.r, by simp⟩
    | some r => exact ⟨rfl, h.stopped⟩
  | some f =>
    obtain ⟨g, ht⟩ := Option.ne_none_iff_exists'.1 (mt h.stopped.2 (by simp [hs]))
    rwa [State.clock_of_fault c hs, State.clock_of_fault c ht]

theorem State.SameEngine.runCycles {s t : State} (h : s.SameEngine t) (cs : List CycleInput) :
    (s.runCycles cs).SameEngine (t.runCycles cs) := by
  induction cs generalizing s t with
  | nil => exact h
  | cons c cs ih => exact ih (h.clock c)

/-- A cycle takes its inputs from the host's entry, and what the list holds afterwards stays as it is. -/
theorem State.clock_withInputs (s : State) (l : List CycleInput) (c : CycleInput) :
    (s.withInputs l).clock c = (s.clock c).withInputs l := by
  cases hf : s.fault with
  | none =>
    rw [State.clock_eq_registerAfter c hf, State.clock_eq_registerAfter (s := s.withInputs l) c hf, State.withInputs_r]
    cases registerAfter s.r (events [c]) with
    | none => rfl
    | some r => rfl
  | some f => rw [State.clock_of_fault c hf, State.clock_of_fault (s := s.withInputs l) c hf]

theorem State.runCycles_withInputs (s : State) (l cs : List CycleInput) :
    (s.withInputs l).runCycles cs = (s.runCycles cs).withInputs l := by
  induction cs generalizing s with
  | nil => rfl
  | cons c cs ih => rw [State.runCycles_cons, State.clock_withInputs, ih, State.runCycles_cons]

/-- Settles O38: every cycle keeps two engines the same, and states that also agree on the position differ in the rest
of the list alone, which no cycle reads. -/
theorem runIsFunctionOfEngineAndInputs : Obligations.RunIsFunctionOfEngineAndInputs := by
  intro s t cs hr hfault
  have hsame : s.SameEngine t := ⟨hr, by rw [hfault]⟩
  obtain ⟨hr', hstopped⟩ := hsame.runCycles cs
  refine ⟨hr', hstopped, fun hcycle => ?_⟩
  have hs : t.withInputs s.inputs = s := by rw [State.withInputs, ← hr, ← hfault, ← hcycle]
  rw [← hs, State.runCycles_withInputs, State.withInputs_fault]

end Sys2Proof.Machine
end

section
/-! The result outputs (42_result_output.md): the digits of the hexadecimal form, where `crc_hex` holds them, and what
both outputs show after a message. -/

namespace Sys2Proof.Machine

theorem toNat_hexDigit_of_le {n : BitVec 4} (h : n.toNat ≤ 9) : (hexDigit n).toNat = 0x30 + n.toNat := by
  have hlt : n < 10#4 := BitVec.lt_def.2 (Nat.lt_succ_of_le h)
  rw [hexDigit, if_pos hlt]
  simp only [BitVec.toNat_add, BitVec.toNat_setWidth, BitVec.toNat_ofNat]
  omega

theorem toNat_hexDigit_of_ge {n : BitVec 4} (h : 10 ≤ n.toNat) : (hexDigit n).toNat = 0x61 + (n.toNat - 10) := by
  have hge : ¬n < 10#4 := mt BitVec.lt_def.1 (Nat.not_lt.2 h)
  rw [hexDigit, if_neg hge]
  simp only [BitVec.toNat_add, BitVec.toNat_sub, BitVec.toNat_setWidth, BitVec.toNat_ofNat]
  omega

/-- Settles O27: a digit lies in 0x30 to 0x39 or in 0x61 to 0x66, by R83's two ranges, and no capital letter does. -/
theorem hexDigitCodes : Obligations.HexDigitCodes := by
  refine fun n => ⟨toNat_hexDigit_of_le, toNat_hexDigit_of_ge, ?capital⟩
  case capital =>
    have hn : n.toNat < 16 := n.isLt
    obtain h | h := le_or_gt n.toNat 9
    · rw [toNat_hexDigit_of_le h]
      omega
    · rw [toNat_hexDigit_of_ge h]
      omega

/-- R80's two forms: XOR with the final value is the complement. -/
theorem finalise_eq_xor (v : Word) : finalise v = v ^^^ Config.finalXor := BitVec.xor_allOnes.symm

/-- Settles O25: the outputs are functions of a register value, reading changes no state that has one, and the examples
are evaluated. -/
theorem numericResult : Obligations.NumericResult := by
  refine ⟨fun v => ⟨rfl, finalise_eq_xor v, rfl⟩, fun s v hv => ?value, fun s => State.crcOut_of_none, by decide,
    by decide, by decide, by decide, rfl, crcOutOf_initValue⟩
  case value =>
    have hread := State.afterRead_of_some hv
    exact ⟨State.crcOut_of_some hv, hread, fun b => by rw [hread]⟩

@[simp] theorem length_hexChars (x : Word) : (hexChars x).length = 8 := by
  rw [hexChars, List.length_map, List.length_range, Config.hexLen]

/-- Character `k` is the digit of nibble `k` (R84). -/
theorem getElem?_hexChars (x : Word) {k : Nat} (hk : k < 8) : (hexChars x)[k]? = some (hexDigit (nibble x k)) := by
  rw [hexChars, Config.hexLen, List.getElem?_map, List.getElem?_range hk, Option.map_some]

/-- Settles O28: the port's bytes are the characters by `extractLsb'_crcHexOf`, which counts them from the least
significant, and the characters are the digits of the nibbles. -/
theorem hexPortLayout : Obligations.HexPortLayout := by
  refine ⟨fun s v x hv hx => ?layout, by decide, by decide, by decide⟩
  case layout =>
    obtain rfl : crcOutOf v = x := Except.ok.inj ((State.crcOut_of_some hv).symm.trans hx)
    refine ⟨State.crcHex_of_some hv, length_hexChars _, fun k hk => ⟨getElem?_hexChars _ hk, ?_⟩⟩
    have hpos : 56 - 8 * k = 8 * (7 - k) := by omega
    rw [hpos, extractLsb'_crcHexOf _ hk, nibble]

/-- Settles O29: `crc_hex` is the packed digits of `crc_out` by its definition, the digits determine the number, and
each output determines the register, so two states differ in both or in neither. -/
theorem hexFormAgreesWithNumeric : Obligations.HexFormAgreesWithNumeric := by
  refine ⟨fun s v hv => ⟨_, outputs_of_some hv⟩, fun _ _ h => crcHexOf_injective h, fun s t v w hs ht => ?_⟩
  rw [crcOut_eq_iff hs ht, crcHex_eq_iff hs ht]

/-- The port shows the characters of the checksum of the bytes folded (R84, R86). -/
theorem crcHex_of_fold {s : State} {m : List Byte} (h : s.r = some (fold m)) :
    s.crcHex = .ok (packChars (crc32aHex m)) :=
  State.crcHex_of_some h

/-- Settles O32: `CRC "m"` leaves `fold m` in the register, by O33, and the result stage makes `CRC32A(m)` of it. -/
theorem engineComputesReference : Obligations.EngineComputesReference := by
  refine ⟨fun m => ⟨rfl, rfl⟩, fun m => rfl, rfl, fun s m rest hf => ?run⟩
  case run =>
    obtain ⟨t, hrun, hr, hout, -⟩ := wholeMessageEquivalence s m _ rest hf (events_crc m)
    exact ⟨t, hrun, hout, crcHex_of_fold hr⟩

/-- Settles O37: it is O36 for no bytes since the last start, whose fold is the initial value. -/
theorem emptyMessage : Obligations.EmptyMessage := by
  refine ⟨fun s t cs rest pre hf he h => ?outputs, knownAnswers.1, by decide, by decide⟩
  case outputs =>
    obtain ⟨hr, -⟩ := onlyBytesSinceLastStartMatter.1 s t cs rest pre [] hf he h
    exact ⟨hr, outputs_of_initValue hr⟩

end Sys2Proof.Machine
end

section
/-! Exceptions (60_exceptions.md sections 1 and 2): which event of a cycle wins, that a list without a reserved word
completes, and what the fault record does. -/

namespace Sys2Proof.Machine

/-- A cycle with `rst = 0` and op 11 is the fault `ReservedOp` with its word, whatever the register holds (R71, R90). -/
theorem cycleStep_of_reserved (s : State) {c : CycleInput} (hr : c.rst = false) (hop : opField c.cmd = 0b11#2) :
    cycleStep s c = .fault (.reservedOp s.cycle c.cmd) := by
  rw [cycleStep_of_command s hr, exec_decode_of_op11 hop]

/-- A cycle with `rst = 0` and op 10 is the UPDATE of the byte on `cmd[7:0]` (R67, R70). -/
theorem cycleStep_of_update (s : State) {c : CycleInput} (hr : c.rst = false) (hop : opField c.cmd = 0b10#2) :
    cycleStep s c = execUpdate (dataField c.cmd) s := by
  rw [cycleStep_of_command s hr, decode_of_op10 hop, exec_update]

/-- Only an UPDATE of a register without a value is the fault `UnwrittenRegister` (R72): the other cycles answer a next
state or a fault of the other kind. -/
theorem cycleStep_unwrittenRegister_iff (s : State) (c : CycleInput) :
    cycleStep s c = .fault (.unwrittenRegister s.cycle) ↔ c.rst = false ∧ opField c.cmd = 0b10#2 ∧ s.r = none := by
  refine ⟨fun h => ?only, fun ⟨hr, hop, hv⟩ => ?faults⟩
  case faults => rw [cycleStep_of_update s hr hop, execUpdate_of_none _ hv]
  case only =>
    cases hr : c.rst with
    | true => rw [cycleStep_of_rst s hr] at h; cases h
    | false =>
      obtain hop | hop | hop | hop := opField_cases c.cmd
      · rw [cycleStep_of_command s hr, decode_of_op00 hop, exec_nop] at h; cases h
      · rw [cycleStep_of_start s (.inr hop)] at h; cases h
      · cases hv : s.r with
        | none => exact ⟨rfl, hop, rfl⟩
        | some v => rw [cycleStep_of_update s hr hop, execUpdate_of_some _ hv] at h; cases h
      · rw [cycleStep_of_reserved s hr hop] at h; cases h

/-- Settles O13: with no fault recorded the step is the cycle's, and `rst` is tested first, `op` second and the register
last. -/
theorem eventPriority : Obligations.EventPriority := by
  intro s c cs hf hi
  refine ⟨fun hr => ⟨_, step_of_rst hf hi hr, rfl⟩, fun ⟨hr, hop⟩ => ?reserved, ?unwritten⟩
  case reserved => rw [step_of_cons hf hi, cycleStep_of_reserved s hr hop]
  case unwritten => rw [step_of_cons hf hi, cycleStep_unwrittenRegister_iff]

/-- An event that is not a reserved word leaves a register that has a value with one (R69, R70, R100). -/
theorem Event.apply_some_of_ne_invalid (v : Word) {e : Event} (he : ∀ w, e ≠ .invalid w) :
    ∃ u, Event.apply (some v) e = some (some u) := by
  cases e with
  | start => exact ⟨_, rfl⟩
  | byte b => exact ⟨_, rfl⟩
  | invalid w => exact absurd rfl (he w)

/-- So do any number of them. -/
theorem registerAfter_some_of_ne_invalid (v : Word) {es : List Event} (hes : ∀ e ∈ es, ∀ w, e ≠ .invalid w) :
    ∃ u, registerAfter (some v) es = some (some u) := by
  induction es generalizing v with
  | nil => exact ⟨v, rfl⟩
  | cons e es ih =>
    obtain ⟨he, hes⟩ := List.forall_mem_cons.1 hes
    obtain ⟨u, hu⟩ := Event.apply_some_of_ne_invalid v he
    rw [registerAfter_cons, hu]
    exact ih u hes

/-- Only the reserved word outside reset is the event of a fault (R71, R90). -/
theorem eventOf_ne_invalid {c : CycleInput} (h : CycleInput.reservedWord c = false) (w : Command) :
    eventOf c ≠ some (.invalid w) := by
  cases hr : c.rst with
  | true => simp [eventOf, hr]
  | false =>
    obtain hop | hop | hop | hop := opField_cases c.cmd
    · simp [eventOf, hr, decode_of_op00 hop]
    · simp [eventOf, hr, decode_of_op01 hop]
    · simp [eventOf, hr, decode_of_op10 hop]
    · simp [CycleInput.reservedWord, hr, hop] at h

theorem ne_invalid_of_mem_events {cs : List CycleInput} (h : NoReserved cs) :
    ∀ e ∈ events cs, ∀ w, e ≠ .invalid w := by
  rintro _ he w rfl
  obtain ⟨c, hc, hw⟩ := List.mem_filterMap.1 he
  exact eventOf_ne_invalid (h c hc) w hw

/-- Settles O44: no event of the list is a fault, so the register keeps having a value, and `completes_iff` makes the
state the list ends in of it. -/
theorem everyCommandSequenceCompletes : Obligations.EveryCommandSequenceCompletes := by
  intro s cs rest ⟨hf, hr⟩ hcs
  obtain ⟨v, hv⟩ := Option.ne_none_iff_exists'.1 hr
  obtain ⟨u, hu⟩ := registerAfter_some_of_ne_invalid v (ne_invalid_of_mem_events hcs)
  rw [← hv] at hu
  obtain ⟨hcrc, hhex⟩ := outputs_of_some (s := ⟨some u, none, s.cycle + cs.length, rest⟩) rfl
  exact ⟨_, _, _, (completes_iff hf).2 ⟨_, hu, rfl⟩, ⟨rfl, nofun⟩, hcrc, hhex, rfl, rfl⟩

/-- An UPDATE of a register without a value enters the record and changes nothing else (R72; log 2). -/
theorem State.clock_of_update_of_none {s : State} {w : Command} (hf : s.fault = none) (hop : opField w = 0b10#2)
    (hv : s.r = none) : s.clock ⟨false, w⟩ = s.record (.unwrittenRegister s.cycle) := by
  rw [State.clock_of_command hf rfl, decode_of_op10 hop, exec_update, execUpdate_of_none _ (by simpa using hv)]
  rfl

/-- A read of the outputs keeps a recorded fault, whether or not it faults itself (R89). -/
theorem State.afterRead_of_fault {s : State} {f : Fault} (h : s.fault = some f) : s.afterRead = s := by
  obtain ⟨v, hv, -⟩ | ⟨hv, -⟩ := s.readR_cases
  · exact State.afterRead_of_some hv
  · rw [State.afterRead_of_none hv, State.record_of_some _ h]

/-- Settles O46: each of the three faults enters an empty record, and a recorded fault stops steps, runs, reads and the
observation. -/
theorem faultRecordIsSticky : Obligations.FaultRecordIsSticky := by
  refine ⟨fun s w hf hop => ?reserved, fun s w hf hop hv => ?update, fun s hf hv => ?read, fun s f cs h => ?sticky⟩
  case reserved => rw [State.clock_of_reserved hf hop, State.record_of_none _ hf]
  case update => rw [State.clock_of_update_of_none hf hop hv, State.record_of_none _ hf]
  case read =>
    rw [State.afterRead_of_none hv, State.record_of_none _ hf]
    exact ⟨rfl, State.crcOut_of_none hv, State.crcHex_of_none hv⟩
  case sticky =>
    rw [State.afterRead_of_fault h]
    exact ⟨step_of_fault h, State.runCycles_of_fault cs h, h, State.observeRun_of_fault cs h⟩

end Sys2Proof.Machine
end

section
/-! Reset (70_reset_and_hazards.md section 1): one cycle of it, any number of them, and what power-up needs. -/

namespace Sys2Proof.Machine

/-- In a list of reset cycles each is one start, whatever is on `cmd` (R90, R101). -/
theorem events_of_rst {cs : List CycleInput} (h : ∀ c ∈ cs, CycleInput.rst c = true) :
    events cs = List.replicate cs.length .start := by
  induction cs with
  | nil => rfl
  | cons c cs ih =>
    obtain ⟨hc, hcs⟩ := List.forall_mem_cons.1 h
    have he : events [c] = [.start] := by simp [events, eventOf, hc]
    rw [events_cons, he, ih hcs]
    rfl

/-- Starts in a row leave the initial value, whatever the register held (R69, R101). -/
theorem registerAfter_starts (r : Option Word) (n : Nat) :
    registerAfter r (List.replicate (n + 1) .start) = some (some Config.initValue) := by
  induction n generalizing r with
  | zero => rfl
  | succ n ih =>
    rw [List.replicate_succ, registerAfter_cons]
    exact ih (some Config.initValue)

/-- Settles O10: reset cycles are starts, so `completes_iff` makes the state they end in of the initial value; the cycle
after them is one with `rst = 0`. -/
theorem resetOfAnyLength : Obligations.ResetOfAnyLength := by
  refine ⟨fun s c cs rest hf hrst => ?resets, fun t cmd cs hf hi => stepRunsDecodedCommand t ⟨false, cmd⟩ cs hf hi rfl⟩
  case resets =>
    have hr : registerAfter s.r (events (c :: cs)) = some (some Config.initValue) := by
      rw [events_of_rst hrst]
      exact registerAfter_starts s.r cs.length
    exact ⟨_, (completes_iff hf).2 ⟨_, hr, rfl⟩, rfl, rfl, rfl, rfl⟩

/-- A reset changes the register and the position, and uses up its entry of the list (R100). -/
theorem applyReset_of_cons {s : State} {c : CycleInput} {cs : List CycleInput} (hi : s.inputs = c :: cs) :
    applyReset s = { s with r := some Config.initValue, cycle := s.cycle + 1, inputs := cs } := by
  rw [applyReset, State.advance, State.writeR, hi]
  rfl

/-- Settles O9: the reset is INIT's write, the UPDATE after it folds its byte into the initial value, and a recorded
fault stops the step. -/
theorem resetCycleSetsRegister : Obligations.ResetCycleSetsRegister := by
  refine ⟨fun s cmd cs hf hi => ?reset, fun s cmd b cs hf hi => ?update, fun s f cmd hf => ?sticky⟩
  case reset =>
    rw [step_of_rst hf hi rfl]
    exact ⟨congrArg _ (applyReset_of_cons hi), fun d => (exec_init d s).symm⟩
  case update =>
    have hi' : (applyReset s).inputs = ⟨false, encode (.update b)⟩ :: cs := by
      rw [applyReset_inputs, hi, List.tail_cons]
    have hupdate : step (applyReset s) = execUpdate b (applyReset s) := by
      rw [stepRunsDecodedCommand (applyReset s) _ _ ((applyReset_fault s).trans hf) hi' rfl, decode_encode, exec_update]
    exact ⟨_, _, step_of_rst hf hi rfl, hupdate.trans (execUpdate_of_some b (applyReset_r s)), rfl⟩
  case sticky =>
    rw [State.clock_of_fault _ hf]
    exact ⟨step_of_fault hf, hf⟩

/-- Settles O12: without a value in the register every use of it faults, and a reset or an INIT writes one. -/
theorem powerUpNeedsResetOrInit : Obligations.PowerUpNeedsResetOrInit := by
  have hv : State.powerUp.r = none := rfl
  refine ⟨hv, rfl, State.crcOut_of_none hv, State.crcHex_of_none hv, fun b => execUpdate_of_none b hv,
    fun s c cs hf hi hstart => ?ready⟩
  case ready =>
    rw [step_of_cons hf hi, cycleStep_of_start s hstart]
    exact ⟨_, rfl, hf, nofun⟩

end Sys2Proof.Machine
end

section
/-! One changed byte (40_table_rom.md R64, 42_result_output.md R81): the fold of a byte is R60's loop, which for R6's
odd polynomial is one-to-one, in the register as in the byte. -/

namespace Sys2Proof.Machine

/-- Equal results come from equal loop inputs, and the byte's share of those is equal. -/
theorem foldByte_left_injective (b : Byte) : Function.Injective (foldByte · b) := by
  intro v w h
  simp only [tableFoldIsLongDivision _ b, foldByteBitwise_eq_genLoop] at h
  exact (BitVec.xor_left_inj _).1 (genLoop_injective (by decide) 8 h)

/-- The register's share is equal, so the bytes are: their entries of the table are distinct (R64). -/
theorem foldByte_right_injective (v : Word) : Function.Injective (foldByte v) := by
  intro a b h
  exact (BitVec.xor_right_inj _).1 (romRead_injective ((BitVec.xor_right_inj _).1 h))

theorem foldBytes_left_injective (m : List Byte) : Function.Injective (foldBytes · m) := by
  induction m with
  | nil => exact Function.injective_id
  | cons b m ih => exact ih.comp (foldByte_left_injective b)

theorem fold_append_cons (p q : List Byte) (x : Byte) :
    fold (p ++ x :: q) = foldBytes (foldByte (fold p) x) q :=
  foldBytes_append Config.initValue p (x :: q)

theorem crc32a_eq_iff {m n : List Byte} : crc32a m = crc32a n ↔ fold m = fold n :=
  crcOutOf_involutive.injective.eq_iff

/-- Settles O41: the result stage, the fold of the bytes after the changed one and the fold of that byte are each
one-to-one. -/
theorem oneChangedByteIsDetected : Obligations.OneChangedByteIsDetected := by
  intro p q x y hne h
  rw [crc32a_eq_iff, fold_append_cons, fold_append_cons] at h
  exact hne (foldByte_right_injective (fold p) (foldBytes_left_injective q h))

end Sys2Proof.Machine
end

section
/-! The step and its run (00_scope.md section 6, 60_exceptions.md R89): the run invariant, the causes of a fault, the
end of the list, and the run that keeps the fault record. -/

namespace Sys2Proof.Machine

/-- A step uses up one entry of the list and leaves the fault record empty. -/
theorem step_next_fields {s t : State} (h : step s = .next t) :
    t.fault = none ∧ t.cycle + t.inputs.length = s.cycle + s.inputs.length := by
  obtain ⟨hf, c, cs, hi, hc⟩ := step_next h
  obtain ⟨hfault, hcycle, hinputs⟩ := cycleStep_next_fields hc
  refine ⟨hfault.trans hf, ?_⟩
  rw [hcycle, hinputs, hi, List.tail_cons, List.length_cons, Nat.add_right_comm, Nat.add_assoc]

/-- Settles O42: the register keeps having a value, and the position gains the entry the list loses. -/
theorem stepKeepsRunInv : Obligations.StepKeepsRunInv := by
  rintro n s t ⟨⟨-, hr⟩, hn⟩ h
  obtain ⟨v, hv⟩ := Option.ne_none_iff_exists'.1 hr
  obtain ⟨w, hw⟩ := step_keeps_register_value hv h
  obtain ⟨hfault, hposition⟩ := step_next_fields h
  exact ⟨⟨hfault, Option.ne_none_iff_exists'.2 ⟨w, hw⟩⟩, hposition.trans hn⟩

/-- Settles O43: the reset value is a value, and position and list are empty. -/
theorem resetMeetsRunInv : Obligations.ResetMeetsRunInv := ⟨⟨rfl, nofun⟩, rfl⟩

/-- A cycle faults on the reserved word and on an UPDATE of a register without a value (R71, R72). -/
theorem cycleStep_eq_fault_iff (s : State) (c : CycleInput) (f : Fault) :
    cycleStep s c = .fault f ↔ c.rst = false ∧
      ((opField c.cmd = 0b11#2 ∧ f = .reservedOp s.cycle c.cmd) ∨
       (opField c.cmd = 0b10#2 ∧ s.r = none ∧ f = .unwrittenRegister s.cycle)) := by
  cases hr : c.rst with
  | true => simp [cycleStep_of_rst s hr]
  | false =>
    obtain hop | hop | hop | hop := opField_cases c.cmd
    · simp [cycleStep_of_command s hr, decode_of_op00 hop, hop]
    · simp [cycleStep_of_start s (.inr hop), hop]
    · cases hv : s.r with
      | none => simp [cycleStep_of_update s hr hop, execUpdate_of_none _ hv, hop, eq_comm]
      | some v => simp [cycleStep_of_update s hr hop, execUpdate_of_some _ hv, hop]
    · simp [cycleStep_of_reserved s hr hop, hop, eq_comm]

/-- Settles O45: at the end of the list the step is a refusal, and otherwise it faults where its cycle does. -/
theorem stepFaultsForTwoCauses : Obligations.StepFaultsForTwoCauses := by
  intro s f hf
  cases hi : s.inputs with
  | nil => simp [step_of_nil hf hi]
  | cons c cs => simp [step_of_cons hf hi, cycleStep_eq_fault_iff]

/-- Every cycle has a meaning or is a fault. -/
theorem cycleStep_ne_refused (s : State) (c : CycleInput) (ρ : Refusal) : cycleStep s c ≠ .refused ρ := by
  rw [cycleStep_eq_registerAfter]
  cases registerAfter s.r (events [c]) with
  | none => nofun
  | some r => nofun

/-- Settles O14: a recorded fault is answered again and a cycle is never refused, which leaves the end of the list. -/
theorem runEndsWithTheList : Obligations.RunEndsWithTheList := by
  intro s
  cases hf : s.fault with
  | some f => simp [step_of_fault hf]
  | none =>
    cases hi : s.inputs with
    | nil => simp [step_of_nil hf hi]
    | cons c cs => simp [step_of_cons hf hi, cycleStep_ne_refused]

/-- A completed list is the recorded run from the list's rest. -/
theorem runCycles_of_completes {s t : State} {cs rest : List CycleInput} (h : Completes s cs rest t) :
    (s.withInputs rest).runCycles cs = t := by
  induction cs generalizing s with
  | nil =>
    cases h
    rfl
  | cons c cs ih =>
    obtain ⟨hf, u, hc, h⟩ := completes_cons_inv h
    have hu : (s.withInputs (cs ++ rest)).clock c = u := by
      rw [State.clock_of_no_fault c (by exact hf), State.withInputs_withInputs, State.withInputs_inputs, hc,
        State.settle]
    have hrest : (s.withInputs rest).clock c = u.withInputs rest := by
      rw [← hu, State.clock_withInputs, State.clock_withInputs, State.withInputs_withInputs]
    rw [State.runCycles_cons, hrest, ih h]

/-- Settles O48: the recorded run reads no list but its own, so it may as well start from the host's rest. -/
theorem recordedRunAgreesWithHostRun : Obligations.RecordedRunAgreesWithHostRun := by
  intro s t cs rest h
  rw [← runCycles_of_completes h, ← State.runCycles_withInputs, State.withInputs_withInputs, State.withInputs_self]

theorem State.observe_of_some {s : State} {v : Word} (hf : s.fault = none) (hv : s.r = some v) :
    s.observe = .ok ⟨crcOutOf v, crcHexOf (crcOutOf v)⟩ := by
  simp [State.observe, hf, hv, Except.map]

/-- Settles O47: a run's observation is that of its last state. -/
theorem observationOfFaultFreeRun : Obligations.ObservationOfFaultFreeRun :=
  fun _ _ _ hf hv => State.observe_of_some hf hv

end Sys2Proof.Machine
end

section
/-! Words as the host gives and reads them (30_encoding.md): fixed words, a presented word, and a listing's entry. -/

namespace Sys2Proof

/-- Settles O1: each word is the encoder's for its instruction, and the decoder undoes the encoder. -/
theorem specWordsDecode : Obligations.SpecWordsDecode :=
  ⟨decode_encode (.nop 0x00#8), decode_encode (.nop 0xFF#8), decode_encode (.init 0x00#8),
    decode_encode (.init 0xA5#8), decode_encode (.update 0x31#8), decode_encode (.update 0xFF#8),
    decode_encode (.reserved 0x00#8), decode_encode (.reserved 0xA5#8)⟩

theorem decodeTableWord_of_lt (nbits : Nat) {w : Nat} (h : w < 1024) :
    decodeTableWord nbits w = some (decode (BitVec.ofNat 10 w)) := by
  rw [decodeTableWord, decodeNat, commandOfNat_of_lt h]
  rfl

end Sys2Proof

namespace Sys2Proof.Machine

theorem State.withFetchWord_of_lt (s : State) (nbits : Nat) {w : Nat} (h : w < 1024) :
    s.withFetchWord nbits w = s.present ⟨false, BitVec.ofNat 10 w⟩ := by
  rw [State.withFetchWord, commandOfNat_of_lt h]

/-- Settles O8: the word stands at the head of the list, so the next step runs it. -/
theorem presentedWordRuns : Obligations.PresentedWordRuns := by
  intro s nbits w hf hw
  refine ⟨_, decodeTableWord_of_lt nbits hw, ?_⟩
  rw [State.withFetchWord_of_lt s nbits hw]
  have hi := s.present_inputs ⟨false, BitVec.ofNat 10 w⟩
  rw [step_of_cons ((s.present_fault _).trans hf) hi, cycleStep_of_command _ rfl]

theorem digitValue_listingDigit : ∀ n : BitVec 4, digitValue (listingDigit n) = some n.toNat := by decide

theorem readRst_listing (rst : Bool) : readRst (if rst then '1' else '0') = some rst := by
  cases rst <;> rfl

/-- The three digits are the word's value in base 16. -/
theorem toNat_eq_digits (w : Command) :
    256 * ((w.extractLsb' 8 2).setWidth 4).toNat + 16 * (w.extractLsb' 4 4).toNat + (w.extractLsb' 0 4).toNat =
      w.toNat := by
  simp only [BitVec.toNat_setWidth, BitVec.extractLsb'_toNat, Nat.shiftRight_eq_div_pow]
  omega

theorem readWord_listingDigits (w : Command) :
    readWord (listingDigit ((w.extractLsb' 8 2).setWidth 4)) (listingDigit (w.extractLsb' 4 4))
      (listingDigit (w.extractLsb' 0 4)) = some w := by
  simp only [readWord, digitValue_listingDigit, toNat_eq_digits, commandOfNat_of_lt w.isLt, BitVec.ofNat_toNat,
    BitVec.setWidth_eq]

theorem readEntry_listingEntry (c : CycleInput) : readEntry (listingEntry c) = some c := by
  rw [listingEntry, readEntry, readRst_listing, readWord_listingDigits]

/-- Settles O52: `rst` and the three digits are read back each on its own; R57's example is evaluated. -/
theorem listingEntryRoundTrip : Obligations.ListingEntryRoundTrip := ⟨readEntry_listingEntry, by decide⟩

end Sys2Proof.Machine
end
